-- ==== Sys2Proof/Word.lean ====
section
/-! DEFINITION. The two value types the codec computes with (spec/00_scope.md R8): unsigned bytes and unsigned 16-bit
words. Bit 0 is the least significant bit (R7). -/

namespace Sys2Proof

/-- A byte: an unsigned 8-bit value (R8). -/
abbrev Byte := BitVec 8

/-- A word: an unsigned 16-bit value (R8, `u16`). -/
abbrev Word := BitVec 16

end Sys2Proof
end

