-- ==== Sys2Proof/Syntax.lean ====
section
/-! DEFINITION. What can be said to the machine: the closed operand enumerations, one constructor of `Instr` for every row
of spec/opcode_table.json, the operand values at the block's ports, and the operations of the codec's environment. -/

namespace Sys2Proof

/-- A register identifier: the closed set of thirteen names, in the source's listing order (spec/10_state.md R13). -/
inductive Reg where
  | control | timing | threshLowLow | threshLowHigh | threshHighLow | threshHighHigh | interrupt
  | crc | id | data0Low | data0High | data1Low | data1High
deriving DecidableEq, Repr, Inhabited

/-- The integration-time setting (spec/43_timing_byte.md R88). -/
inductive Integ where
  | ms13 | ms101 | ms402
deriving DecidableEq, Repr

/-- The gain setting (spec/43_timing_byte.md R89). -/
inductive Gain where
  | low | high
deriving DecidableEq, Repr

/-- The peripheral's bus address: one of three defined values (spec/44_host_sequences.md R95; 92_eei_decisions.md D18). -/
inductive BusAddr where
  | a29 | a39 | a49
deriving DecidableEq, Repr

/-- The three flags of a command byte that are operands of the encoder (spec/41_command_byte.md R75 to R77).
Command-valid is not among them: it is a constant of the encoder (R74). -/
structure CmdFlags where
  clear : Bool
  word : Bool
  block : Bool
deriving DecidableEq, Repr

/-- An instruction: one constructor for each row of spec/opcode_table.json. The seventeen command-byte rows are the inputs of
the derived decoder `decode_cmd` (spec/30_encoding.md R50), the last five are the codec's operations (spec/00_scope.md R3).
Every term is a legal instruction: the operands are closed enumerations or fixed-width values (R52). -/
inductive Instr where
  /-- `CMD.CONTROL`, `1cwb0000` (R57). -/
  | cmdControl (f : CmdFlags)
  /-- `CMD.TIMING`, `1cwb0001` (R58). -/
  | cmdTiming (f : CmdFlags)
  /-- `CMD.THRESHLOWLOW`, `1cwb0010` (R59). -/
  | cmdThreshLowLow (f : CmdFlags)
  /-- `CMD.THRESHLOWHIGH`, `1cwb0011` (R60). -/
  | cmdThreshLowHigh (f : CmdFlags)
  /-- `CMD.THRESHHIGHLOW`, `1cwb0100` (R61). -/
  | cmdThreshHighLow (f : CmdFlags)
  /-- `CMD.THRESHHIGHHIGH`, `1cwb0101` (R62). -/
  | cmdThreshHighHigh (f : CmdFlags)
  /-- `CMD.INTERRUPT`, `1cwb0110` (R63). -/
  | cmdInterrupt (f : CmdFlags)
  /-- `CMD.CRC`, `1cwb1000` (R64). -/
  | cmdCrc (f : CmdFlags)
  /-- `CMD.ID`, `1cwb1010` (R65). -/
  | cmdId (f : CmdFlags)
  /-- `CMD.DATA0LOW`, `1cwb1100` (R66). -/
  | cmdData0Low (f : CmdFlags)
  /-- `CMD.DATA0HIGH`, `1cwb1101` (R67). -/
  | cmdData0High (f : CmdFlags)
  /-- `CMD.DATA1LOW`, `1cwb1110` (R68). -/
  | cmdData1Low (f : CmdFlags)
  /-- `CMD.DATA1HIGH`, `1cwb1111` (R69). -/
  | cmdData1High (f : CmdFlags)
  /-- `CMD.RESERVED_7`, `1cwb0111` (R45). -/
  | cmdReserved7 (f : CmdFlags)
  /-- `CMD.RESERVED_9`, `1cwb1001` (R45). -/
  | cmdReserved9 (f : CmdFlags)
  /-- `CMD.RESERVED_B`, `1cwb1011` (R45). -/
  | cmdReservedB (f : CmdFlags)
  /-- `NOTCMD`, `0xxxxxxx` (R46); `low` is the byte's seven remaining bits. -/
  | notCmd (low : BitVec 7)
  /-- `ADDROF r` (R56). -/
  | addrOf (r : Reg)
  /-- `BUILDCMD r, word, clear, block` (R73). -/
  | buildCmd (r : Reg) (f : CmdFlags)
  /-- `DECODEWORD lo, hi` (R81). -/
  | decodeWord (lo hi : Byte)
  /-- `ENCODEWORD w` (R82). -/
  | encodeWord (w : Word)
  /-- `ENCTIMING i, g` (R87). -/
  | encTiming (i : Integ) (g : Gain)
deriving DecidableEq, Repr

/-- Which function of the block (or the derived command-byte decoder) a word is presented to. The block has no
operation-select input (spec/30_encoding.md R51): which function is evaluated is the environment's choice
(spec/10_state.md R12), so it is part of what the environment presents and no part of the word. -/
inductive CodecFn where
  | cmdByte | addrOf | buildCmd | decodeWord | encodeWord | encTiming
deriving DecidableEq, Repr

/-- Operand values at the ports of one of the five functions (spec/30_encoding.md R51, its table). -/
inductive Ports where
  | addrOf (regSel : BitVec 4)
  | buildCmd (regSel : BitVec 4) (word clear block : Bool)
  | decodeWord (lo hi : Byte)
  | encodeWord (word : Word)
  | encTiming (integ : BitVec 2) (gain : BitVec 1)
deriving DecidableEq, Repr

/-- Why a presented word or port pattern names no instruction. -/
inductive Reject where
  /-- The word has not the one length of the function's format (spec/30_encoding.md R55). -/
  | wrongLength
  /-- A byte in the format of `ADDROF` with a bit of 7:4 set (R40, R56). -/
  | addressTooWide
  /-- A byte in the format of `ADDROF` or `BUILDCMD` whose address is 0x7, 0x9 or 0xB (R45). -/
  | reservedAddress
  /-- A byte in the format of `BUILDCMD` with bit 7 clear (R46). -/
  | commandValidClear
  /-- A byte in the format of `ENCTIMING` that the encoder never produces (R48). -/
  | timingByteNotProduced
  /-- `reg_sel` is 13, 14 or 15 (R52, R119). -/
  | regSelNamesNoRegister
  /-- `integ` is 3 (R52, R119). -/
  | integNamesNoSetting
deriving DecidableEq, Repr

/-- The operations of the codec's environment (spec/44_host_sequences.md R96 to R101, R105) and the three events that reach
it from outside (spec/70_reset_and_hazards.md R122, R128; 10_state.md R24). A handle is named by its number in the order of construction. -/
inductive EnvOp where
  /-- `construct(bus, address)`; `none` takes the default address (R96). The address is any 7-bit value here, so that one
  outside the three can be presented and refused (spec/95_test_vectors.md X8). -/
  | construct (address : Option (BitVec 7))
  /-- `powerOn()` (R97). -/
  | powerOn (h : Nat)
  /-- `powerOff()` (R98). -/
  | powerOff (h : Nat)
  /-- `readVisibleAndIrRaw()` (R99). -/
  | readVisibleAndIrRaw (h : Nat)
  /-- `readIrRaw()` (R100). -/
  | readIrRaw (h : Nat)
  /-- `configureTimingAndGain(i, g)` (R101). -/
  | configureTimingAndGain (h : Nat) (i : Integ) (g : Gain)
  /-- A handle is dropped (R128). -/
  | dropHandle (h : Nat)
  /-- The device at a bus address loses its power (R122). -/
  | devicePowerDown (a : BusAddr)
  /-- The device at a bus address gets its power back (spec/10_state.md R24; 92_eei_decisions.md D22). -/
  | devicePowerUp (a : BusAddr)
deriving DecidableEq, Repr

end Sys2Proof
end

