-- ==== Sys2Proof/Machine/Operands.lean ====
section
/-! DEFINITION. The codes of the operand enumerations: register addresses (spec/40_register_address.md), the wire code
REG_ENC (spec/30_encoding.md R51), the codes of the timing settings (spec/43_timing_byte.md R88, R89) and the bus addresses
(spec/44_host_sequences.md R95). -/

namespace Sys2Proof.Machine

/-- `addr_of`, the constant table of R56 (one row each, R57 to R69): a byte with a zero high nibble. -/
def addrOf (r : Reg) : Byte :=
  match r with
  | .control => 0x00
  | .timing => 0x01
  | .threshLowLow => 0x02
  | .threshLowHigh => 0x03
  | .threshHighLow => 0x04
  | .threshHighHigh => 0x05
  | .interrupt => 0x06
  | .crc => 0x08
  | .id => 0x0A
  | .data0Low => 0x0C
  | .data0High => 0x0D
  | .data1Low => 0x0E
  | .data1High => 0x0F

/-- `reg_of`, the partial inverse (R70): `none` is the spec's `Reserved` (0x7, 0x9, 0xB). -/
def regOf (a : BitVec 4) : Option Reg :=
  match a.toNat with
  | 0x0 => some .control
  | 0x1 => some .timing
  | 0x2 => some .threshLowLow
  | 0x3 => some .threshLowHigh
  | 0x4 => some .threshHighLow
  | 0x5 => some .threshHighHigh
  | 0x6 => some .interrupt
  | 0x8 => some .crc
  | 0xA => some .id
  | 0xC => some .data0Low
  | 0xD => some .data0High
  | 0xE => some .data1Low
  | 0xF => some .data1High
  | _ => none

/-- REG_ENC at its default, the ordinal in the source's listing order (R51; 92_eei_decisions.md D3; log 8). -/
def regEnc (r : Reg) : BitVec 4 :=
  match r with
  | .control => 0
  | .timing => 1
  | .threshLowLow => 2
  | .threshLowHigh => 3
  | .threshHighLow => 4
  | .threshHighHigh => 5
  | .interrupt => 6
  | .crc => 7
  | .id => 8
  | .data0Low => 9
  | .data0High => 10
  | .data1Low => 11
  | .data1High => 12

/-- The register a `reg_sel` pattern names; 13, 14 and 15 name none (R52). -/
def regOfSel (sel : BitVec 4) : Option Reg :=
  match sel.toNat with
  | 0 => some .control
  | 1 => some .timing
  | 2 => some .threshLowLow
  | 3 => some .threshLowHigh
  | 4 => some .threshHighLow
  | 5 => some .threshHighHigh
  | 6 => some .interrupt
  | 7 => some .crc
  | 8 => some .id
  | 9 => some .data0Low
  | 10 => some .data0High
  | 11 => some .data1Low
  | 12 => some .data1High
  | _ => none

/-- The two-bit code of an integration-time setting (R88). -/
def integCode (i : Integ) : BitVec 2 :=
  match i with
  | .ms13 => 0
  | .ms101 => 1
  | .ms402 => 2

/-- The setting an `integ` pattern names; 3 names none (R52, R88). -/
def integOf (c : BitVec 2) : Option Integ :=
  match c.toNat with
  | 0 => some .ms13
  | 1 => some .ms101
  | 2 => some .ms402
  | _ => none

/-- The one-bit code of a gain setting (R89). -/
def gainCode (g : Gain) : BitVec 1 :=
  match g with
  | .low => 0
  | .high => 1

/-- The setting a `gain` bit names (R89). -/
def gainOf (c : BitVec 1) : Gain :=
  if c = 0 then .low else .high

/-- The 7-bit value of a bus address (R95). -/
def busAddrBits (a : BusAddr) : BitVec 7 :=
  match a with
  | .a29 => 0x29
  | .a39 => 0x39
  | .a49 => 0x49

/-- The bus address a 7-bit value is, if it is one of the three (R95; 92_eei_decisions.md D18). -/
def busAddrOf (v : BitVec 7) : Option BusAddr :=
  if v = 0x29 then some .a29
  else if v = 0x39 then some .a39
  else if v = 0x49 then some .a49
  else none

/-- The default bus address, 0x39 (R95, R96). -/
def defaultBusAddr : BusAddr := .a39

end Sys2Proof.Machine
end

