-- ==== Sys2Proof/WellFormed.lean ====
section
/-! DEFINITION. Which inputs lie in the operand domains. An `Instr` is well-formed by its type: "all inputs to its operations
are closed enumerations or fixed-width integers with no invalid encoding" (spec/30_encoding.md R52), so a reserved register or
a cleared command-valid bit cannot be written (spec/95_test_vectors.md X6, X7). What can be ill-formed is a port pattern or a
bus address, and these checks say which are. -/

namespace Sys2Proof

/-- A port pattern lies in the operand domains: `reg_sel` is at most 12 and `integ` is not 3 (R51, R52, R119). -/
def Ports.wellFormed (p : Ports) : Bool :=
  match p with
  | .addrOf sel => decide (sel.toNat ≤ 12)
  | .buildCmd sel _ _ _ => decide (sel.toNat ≤ 12)
  | .decodeWord _ _ => true
  | .encodeWord _ => true
  | .encTiming integ _ => decide (integ.toNat ≤ 2)

/-- An environment operation names only a defined bus address (spec/44_host_sequences.md R95; D18). -/
def EnvOp.wellFormed (op : EnvOp) : Bool :=
  match op with
  | .construct (some v) => v == 0x29 || v == 0x39 || v == 0x49
  | .construct none => true
  | .powerOn _ => true
  | .powerOff _ => true
  | .readVisibleAndIrRaw _ => true
  | .readIrRaw _ => true
  | .configureTimingAndGain _ _ _ => true
  | .dropHandle _ => true
  | .devicePowerDown _ => true
  | .devicePowerUp _ => true

end Sys2Proof
end

