-- ==== Sys2Proof/Decode.lean ====
section
/-! DEFINITION. From presented bits to an instruction, and back. Words are read in the formats of spec/30_encoding.md
(R40 to R44) and of spec/opcode_table.json; ports are read by R51. Every function here is total and rejects by name. -/

namespace Sys2Proof

open Sys2Proof.Machine

/-- Bits 3:0 of a byte: the `ADDR` field (R41). -/
def addrField (c : Byte) : BitVec 4 := c.extractLsb' 0 4

/-- The flag fields of a command byte: clear bit 6, word bit 5, block bit 4 (R41). -/
def flagFields (c : Byte) : CmdFlags :=
  ⟨c.getLsbD 6, c.getLsbD 5, c.getLsbD 4⟩

/-- The table's row `CMD.<REG>` of a register. -/
def cmdRow (r : Reg) (f : CmdFlags) : Instr :=
  match r with
  | .control => .cmdControl f
  | .timing => .cmdTiming f
  | .threshLowLow => .cmdThreshLowLow f
  | .threshLowHigh => .cmdThreshLowHigh f
  | .threshHighLow => .cmdThreshHighLow f
  | .threshHighHigh => .cmdThreshHighHigh f
  | .interrupt => .cmdInterrupt f
  | .crc => .cmdCrc f
  | .id => .cmdId f
  | .data0Low => .cmdData0Low f
  | .data0High => .cmdData0High f
  | .data1Low => .cmdData1Low f
  | .data1High => .cmdData1High f

/-- The command-byte row a byte belongs to: the seventeen rows partition the 256 values (R47, R55). -/
def decodeCmdByte (c : Byte) : Instr :=
  if c.getLsbD 7 then
    match regOf (addrField c) with
    | some r => cmdRow r (flagFields c)
    | none =>
      if addrField c = 0x7 then .cmdReserved7 (flagFields c)
      else if addrField c = 0x9 then .cmdReserved9 (flagFields c)
      else .cmdReservedB (flagFields c)
  else .notCmd (c.extractLsb' 0 7)

/-- A byte in the format `0000aaaa` of the row `ADDROF` (R40, R56). -/
def decodeAddrOf (b : Byte) : Except Reject Instr :=
  if b.extractLsb' 4 4 = 0 then
    match regOf (addrField b) with
    | some r => .ok (.addrOf r)
    | none => .error .reservedAddress
  else .error .addressTooWide

/-- A byte in the format `1cwbaaaa` of the row `BUILDCMD` (R41, R73). -/
def decodeBuildCmd (b : Byte) : Except Reject Instr :=
  if b.getLsbD 7 then
    match regOf (addrField b) with
    | some r => .ok (.buildCmd r (flagFields b))
    | none => .error .reservedAddress
  else .error .commandValidClear

/-- A byte in the format `000g00ii` of the row `ENCTIMING` (R43, R48, R87). -/
def decodeEncTiming (b : Byte) : Except Reject Instr :=
  if b.extractLsb' 5 3 = 0 ∧ b.extractLsb' 2 2 = 0 then
    match integOf (b.extractLsb' 0 2) with
    | some i => .ok (.encTiming i (gainOf (b.extractLsb' 4 1)))
    | none => .error .timingByteNotProduced
  else .error .timingByteNotProduced

/-- The instruction a word presented to a function stands for. A word is its bytes, the first at the lowest index: a 16-bit
word comes low byte first (R26, R44). Every format has one length (R55). -/
def decode (fn : CodecFn) (bytes : List Byte) : Except Reject Instr :=
  match fn, bytes with
  | .cmdByte, [c] => .ok (decodeCmdByte c)
  | .addrOf, [b] => decodeAddrOf b
  | .buildCmd, [b] => decodeBuildCmd b
  | .decodeWord, [lo, hi] => .ok (.decodeWord lo hi)
  | .encodeWord, [lo, hi] => .ok (.encodeWord (hi ++ lo))
  | .encTiming, [b] => decodeEncTiming b
  | _, _ => .error .wrongLength

/-- The instruction that operand values at the ports of a function stand for (R51); patterns outside the operand domains
name none (R52, R119). -/
def decodePorts (p : Ports) : Except Reject Instr :=
  match p with
  | .addrOf sel =>
    match regOfSel sel with
    | some r => .ok (.addrOf r)
    | none => .error .regSelNamesNoRegister
  | .buildCmd sel word clear block =>
    match regOfSel sel with
    | some r => .ok (.buildCmd r ⟨clear, word, block⟩)
    | none => .error .regSelNamesNoRegister
  | .decodeWord lo hi => .ok (.decodeWord lo hi)
  | .encodeWord w => .ok (.encodeWord w)
  | .encTiming integ gain =>
    match integOf integ with
    | some i => .ok (.encTiming i (gainOf gain))
    | none => .error .integNamesNoSetting

/-- The byte with pattern `1cwbaaaa`. -/
def cmdPattern (f : CmdFlags) (a : BitVec 4) : Byte :=
  1#1 ++ BitVec.ofBool f.clear ++ BitVec.ofBool f.word ++ BitVec.ofBool f.block ++ a

/-- The words of an instruction, from the patterns of spec/opcode_table.json, and the function they are presented to. -/
def encode (i : Instr) : CodecFn × List Byte :=
  match i with
  | .cmdControl f => (.cmdByte, [cmdPattern f 0x0])
  | .cmdTiming f => (.cmdByte, [cmdPattern f 0x1])
  | .cmdThreshLowLow f => (.cmdByte, [cmdPattern f 0x2])
  | .cmdThreshLowHigh f => (.cmdByte, [cmdPattern f 0x3])
  | .cmdThreshHighLow f => (.cmdByte, [cmdPattern f 0x4])
  | .cmdThreshHighHigh f => (.cmdByte, [cmdPattern f 0x5])
  | .cmdInterrupt f => (.cmdByte, [cmdPattern f 0x6])
  | .cmdCrc f => (.cmdByte, [cmdPattern f 0x8])
  | .cmdId f => (.cmdByte, [cmdPattern f 0xA])
  | .cmdData0Low f => (.cmdByte, [cmdPattern f 0xC])
  | .cmdData0High f => (.cmdByte, [cmdPattern f 0xD])
  | .cmdData1Low f => (.cmdByte, [cmdPattern f 0xE])
  | .cmdData1High f => (.cmdByte, [cmdPattern f 0xF])
  | .cmdReserved7 f => (.cmdByte, [cmdPattern f 0x7])
  | .cmdReserved9 f => (.cmdByte, [cmdPattern f 0x9])
  | .cmdReservedB f => (.cmdByte, [cmdPattern f 0xB])
  | .notCmd low => (.cmdByte, [0#1 ++ low])
  | .addrOf r => (.addrOf, [0#4 ++ addrField (addrOf r)])
  | .buildCmd r f => (.buildCmd, [cmdPattern f (addrField (addrOf r))])
  | .decodeWord lo hi => (.decodeWord, [lo, hi])
  | .encodeWord w => (.encodeWord, [w.extractLsb' 0 8, w.extractLsb' 8 8])
  | .encTiming i g => (.encTiming, [0#3 ++ gainCode g ++ 0#2 ++ integCode i])

/-- The port values of one of the five operations (R51); the command-byte rows are not operations of the block. -/
def encodePorts (i : Instr) : Option Ports :=
  match i with
  | .addrOf r => some (.addrOf (regEnc r))
  | .buildCmd r f => some (.buildCmd (regEnc r) f.word f.clear f.block)
  | .decodeWord lo hi => some (.decodeWord lo hi)
  | .encodeWord w => some (.encodeWord w)
  | .encTiming i g => some (.encTiming (integCode i) (gainCode g))
  | .cmdControl _ | .cmdTiming _ | .cmdThreshLowLow _ | .cmdThreshLowHigh _ | .cmdThreshHighLow _
  | .cmdThreshHighHigh _ | .cmdInterrupt _ | .cmdCrc _ | .cmdId _ | .cmdData0Low _ | .cmdData0High _
  | .cmdData1Low _ | .cmdData1High _ | .cmdReserved7 _ | .cmdReserved9 _ | .cmdReservedB _ | .notCmd _ => none

/-- One command-byte row of spec/opcode_table.json: its mnemonic, `match` and `mask`. -/
structure CmdRow where
  mnemonic : String
  pattern : Byte
  mask : Byte
deriving DecidableEq, Repr

/-- The seventeen `match`/`mask` rows of spec/opcode_table.json, as the table lists them (R55). -/
def commandRows : List CmdRow :=
  [ ⟨"CMD.CONTROL", 0x80, 0x8F⟩, ⟨"CMD.TIMING", 0x81, 0x8F⟩, ⟨"CMD.THRESHLOWLOW", 0x82, 0x8F⟩,
    ⟨"CMD.THRESHLOWHIGH", 0x83, 0x8F⟩, ⟨"CMD.THRESHHIGHLOW", 0x84, 0x8F⟩, ⟨"CMD.THRESHHIGHHIGH", 0x85, 0x8F⟩,
    ⟨"CMD.INTERRUPT", 0x86, 0x8F⟩, ⟨"CMD.CRC", 0x88, 0x8F⟩, ⟨"CMD.ID", 0x8A, 0x8F⟩, ⟨"CMD.DATA0LOW", 0x8C, 0x8F⟩,
    ⟨"CMD.DATA0HIGH", 0x8D, 0x8F⟩, ⟨"CMD.DATA1LOW", 0x8E, 0x8F⟩, ⟨"CMD.DATA1HIGH", 0x8F, 0x8F⟩,
    ⟨"CMD.RESERVED_7", 0x87, 0x8F⟩, ⟨"CMD.RESERVED_9", 0x89, 0x8F⟩, ⟨"CMD.RESERVED_B", 0x8B, 0x8F⟩,
    ⟨"NOTCMD", 0x00, 0x80⟩ ]

/-- The table mnemonic of an instruction. -/
def mnemonicOf (i : Instr) : String :=
  match i with
  | .cmdControl _ => "CMD.CONTROL"
  | .cmdTiming _ => "CMD.TIMING"
  | .cmdThreshLowLow _ => "CMD.THRESHLOWLOW"
  | .cmdThreshLowHigh _ => "CMD.THRESHLOWHIGH"
  | .cmdThreshHighLow _ => "CMD.THRESHHIGHLOW"
  | .cmdThreshHighHigh _ => "CMD.THRESHHIGHHIGH"
  | .cmdInterrupt _ => "CMD.INTERRUPT"
  | .cmdCrc _ => "CMD.CRC"
  | .cmdId _ => "CMD.ID"
  | .cmdData0Low _ => "CMD.DATA0LOW"
  | .cmdData0High _ => "CMD.DATA0HIGH"
  | .cmdData1Low _ => "CMD.DATA1LOW"
  | .cmdData1High _ => "CMD.DATA1HIGH"
  | .cmdReserved7 _ => "CMD.RESERVED_7"
  | .cmdReserved9 _ => "CMD.RESERVED_9"
  | .cmdReservedB _ => "CMD.RESERVED_B"
  | .notCmd _ => "NOTCMD"
  | .addrOf _ => "ADDROF"
  | .buildCmd _ _ => "BUILDCMD"
  | .decodeWord _ _ => "DECODEWORD"
  | .encodeWord _ => "ENCODEWORD"
  | .encTiming _ _ => "ENCTIMING"

/-- The function a bare table word of `nbits` bits is presented to. The five operation rows give the pattern of a result or
operand, which overlaps other rows bit for bit, so a bare word cannot say which row it is of: eight bits go to the command-byte
decoder, whose rows partition all bytes (R47, R55), and more bits to `DECODEWORD`. DESIGN CHOICE, log 2. -/
def tableFn (nbits : Nat) : CodecFn :=
  if nbits ≤ 8 then .cmdByte else .decodeWord

/-- The bytes of a table word of `nbits` bits, low byte first (R44). -/
def tableBytes (nbits w : Nat) : List Byte :=
  (List.range (max 1 ((nbits + 7) / 8))).map fun i => BitVec.ofNat 8 (w / 256 ^ i)

/-- The instruction the decoder reads from a bare table word. -/
def decodeTableWord (nbits w : Nat) : Option Instr :=
  match decode (tableFn nbits) (tableBytes nbits w) with
  | .ok i => some i
  | .error _ => none

end Sys2Proof
end

