-- ==== Sys2Proof/Config.lean ====
section
/-! DEFINITION. The spec's open parameters and draws (spec/92_eei_decisions.md section 3, D16, D20, D22): constants without a
body, so that no proof can see what they are. DESIGN CHOICE of form, log 4, 5, 6 and 8. -/

namespace Sys2Proof

/-- What stands for the `k`-th error value of the bus capability (D20; spec/60_exceptions.md R108). -/
opaque Config.busErrorToken : Nat → Nat

/-- The parameter BusError of 92_eei_decisions.md section 3 (spec/60_exceptions.md R107, R108): the values the bus capability's
error can take, the range of an uninterpreted constant. So no value can be written as a numeral, no two are known to differ or
to be equal, and how many there are is open; no cause, address or byte count is attached. DESIGN CHOICE of form (log 5): State
is plain data, so the values are comparable, and therefore countable. -/
def BusError : Type := { token : Nat // ∃ k, Config.busErrorToken k = token }
deriving DecidableEq, Repr

/-- An error value: what the capability reports at draw `k` (D20). -/
def BusError.drawn (k : Nat) : BusError := ⟨Config.busErrorToken k, k, rfl⟩

/-- The outcome of one bus transaction (spec/44_host_sequences.md R93): success, with the bytes a read brings back, or the
capability's error. -/
inductive BusReply where
  | ok (bytes : List Byte)
  | err (e : BusError)
deriving DecidableEq, Repr, Inhabited

/-- CONSTRUCT_POWERS_ON: whether constructing a handle powers the device on (spec/44_host_sequences.md R96; D16, OPEN). -/
opaque Config.constructPowersOn : Bool

/-- PERIPH_RESET: the register contents of the peripheral at a bus address after reset (D22, OPEN; spec/10_state.md R24). -/
opaque Config.periphReset : BusAddr → Reg → Byte

/-- The outcome of the bus transaction with draw number `n`, where the outside world has fixed none (D20). -/
opaque Config.busReply : Nat → BusReply

/-- Byte `i` that the read with draw number `n` brings back, where the outcome lists fewer bytes than were asked for (D20;
spec/44_host_sequences.md R93: exactly `n` bytes come back). -/
opaque Config.readByte : Nat → Nat → Byte

/-- What a peripheral register holds after the event with draw number `n`, where the spec does not say
(spec/60_exceptions.md R110; spec/10_state.md R24; D22). -/
opaque Config.periphByte : Nat → Reg → Byte

end Sys2Proof
end

