-- ==== Sys2Proof/Machine/State.lean ====
section
/-! DEFINITION. The machine's state as plain data, its two kinds of stop, and the state after reset. The codec itself has no
state (spec/10_state.md R11): what State holds is the codec's environment (R23, R14 to R18, R21) and what passes between the
two. -/

namespace Sys2Proof.Machine

/-- What `decode_cmd` reports of a byte (spec/30_encoding.md R50). -/
inductive CmdReport where
  | command (r : Reg) (f : CmdFlags)
  | reservedAddress (a : BitVec 4) (f : CmdFlags)
  | notCommand
deriving DecidableEq, Repr

/-- What is handed back to the environment, or to the caller, at the end of a step. -/
inductive Result where
  /-- `ADDROF`: a byte with the 4-bit address (R56). -/
  | addr (b : Byte)
  /-- `BUILDCMD`: the command byte (R73). -/
  | cmd (b : Byte)
  /-- `DECODEWORD`: the word (R81). -/
  | word (w : Word)
  /-- `ENCODEWORD`: the byte pair `[lo, hi]` (R82). -/
  | bytePair (lo hi : Byte)
  /-- `ENCTIMING`: the timing byte (R87). -/
  | timing (b : Byte)
  /-- `decode_cmd`: its report (R50). -/
  | report (d : CmdReport)
  /-- `construct`: the new handle's number (R96). -/
  | constructed (h : Nat)
  /-- An environment operation succeeded with no value (R97, R98, R101). -/
  | ok
  /-- A channel read succeeded: the raw count (R99, R100). -/
  | count (w : Word)
  /-- The bus error of an operation, verbatim (R102, R107). -/
  | busError (e : BusError)
  /-- `construct` failed with the power-on write's bus error; no handle exists (R96). -/
  | constructFailed (e : BusError)
  /-- An event from outside took place (R122, R128, R24). -/
  | happened
deriving DecidableEq, Repr

/-- One bus transaction as the handle issues it (spec/44_host_sequences.md R93, R94). -/
inductive BusCall where
  /-- `BusWrite(a, bytes)`. -/
  | write (a : BusAddr) (bytes : List Byte)
  /-- `BusWriteRead(a, wbytes, n)`. -/
  | writeRead (a : BusAddr) (wbytes : List Byte) (n : Nat)
deriving DecidableEq, Repr

/-- The registers of a peripheral that the spec gives contents (spec/10_state.md R14, R15, R17, R18). R16 forbids a model to
give contents to the other seven. -/
structure Peripheral where
  control : Byte
  timing : Byte
  data0Low : Byte
  data0High : Byte
  data1Low : Byte
  data1High : Byte
deriving DecidableEq, Repr

/-- The peripheral that answers at each bus address (spec/10_state.md R21 (b); log 9). -/
structure Bank where
  at29 : Peripheral
  at39 : Peripheral
  at49 : Peripheral
deriving DecidableEq, Repr

/-- What the environment presents in one step. -/
inductive Input where
  /-- Operand values at a function's ports (spec/30_encoding.md R51). -/
  | ports (p : Ports)
  /-- A word in the table format of a function (R40, R55), low byte first. -/
  | word (fn : CodecFn) (bytes : List Byte)
  /-- An operation of the environment (spec/44_host_sequences.md). -/
  | env (op : EnvOp)
deriving DecidableEq, Repr

/-- The machine's state. `handles`, `bank` and `busTrace` are the spec's; `inputs`, `results`, `busReplies` and `draws` are the
model's own (log 3, 4). -/
structure State where
  /-- What is presented next, in order (spec/10_state.md R12; 92_eei_decisions.md D2, D11). -/
  inputs : List Input
  /-- Results handed back so far, oldest first. -/
  results : List Result
  /-- The bus address each constructed handle holds (R23), in the order of construction; `none` once it is dropped. -/
  handles : List (Option BusAddr)
  /-- The peripherals' registers. -/
  bank : Bank
  /-- Bus transactions issued so far, oldest first (R103; spec/95_test_vectors.md section 4). -/
  busTrace : List BusCall
  /-- Outcomes of coming transactions that the outside world has fixed (D20). -/
  busReplies : List BusReply
  /-- Number of the next free draw (D20). -/
  draws : Nat
deriving DecidableEq, Repr

/-- A fault of the machine. There is none: "No operation of the codec can raise an exception, fault, trap or error, on any
operand" (spec/60_exceptions.md R106), and the environment's one error is a result (R107, R110). -/
inductive Fault where
deriving DecidableEq, Repr

/-- Why a step gives no next state. -/
inductive Refusal where
  /-- Raised by `exec` for an instruction without a meaning (none is left). Safe. -/
  | notModelled (mnemonic : String)
  /-- Raised by a step whose presented word or port pattern names no instruction (spec/30_encoding.md R45, R46, R48, R52;
  60_exceptions.md R119): "A model refuses such an input". Safe. -/
  | rejected (reason : Reject)
  /-- Raised by `construct` with an address that is none of the three (spec/44_host_sequences.md R95; 92_eei_decisions.md D18;
  95_test_vectors.md X8). Safe. -/
  | notABusAddress (address : BitVec 7)
  /-- Raised by a call on a handle that was never constructed or was dropped: no such call can be written (log 9). Safe. -/
  | noSuchHandle (h : Nat)
deriving DecidableEq, Repr

/-- A peripheral after reset: a device just after a power-down, so CONTROL is 0x00 (spec/10_state.md R24, its table); that reset
is such a device, and none that power has returned to, is the model's choice (DESIGN CHOICE, log 6). Every other register holds
what PERIPH_RESET says (92_eei_decisions.md D22). -/
def periphAfterReset (a : BusAddr) : Peripheral where
  control := 0x00
  timing := Config.periphReset a .timing
  data0Low := Config.periphReset a .data0Low
  data0High := Config.periphReset a .data0High
  data1Low := Config.periphReset a .data1Low
  data1High := Config.periphReset a .data1High

/-- The machine right after reset: no handle, nothing presented, no transaction yet. -/
def State.reset : State where
  inputs := []
  results := []
  handles := []
  bank := ⟨periphAfterReset .a29, periphAfterReset .a39, periphAfterReset .a49⟩
  busTrace := []
  busReplies := []
  draws := 0

end Sys2Proof.Machine
end

