-- ==== Sys2Proof/Machine/Flags.lean ====
section
/-! DEFINITION. The flags of a command byte, packed and unpacked (spec/41_command_byte.md R73 to R79; spec/30_encoding.md
R50). The codec has no status flags (spec/10_state.md R19), so there is no other flag computation. -/

namespace Sys2Proof.Machine

/-- `bool(b)` as a byte: 1 if the flag is true, else 0 (spec/00_scope.md section 5). -/
def boolByte (b : Bool) : Byte := if b then 1 else 0

/-- Default flags: all false (R78). -/
def defaultFlags : CmdFlags := ⟨false, false, false⟩

/-- The word flag alone (R76), as the two channel reads request it (R99, R100). -/
def wordFlag : CmdFlags := ⟨false, true, false⟩

/-- Bit 7, command-valid: a constant of the encoder (R74). -/
def commandValid : Byte := 0x80

/-- The three flags at their positions: block bit 4, word bit 5, clear bit 6 (R41, R73). -/
def packFlags (f : CmdFlags) : Byte :=
  boolByte f.block <<< 4 ||| boolByte f.word <<< 5 ||| boolByte f.clear <<< 6

/-- The flags of a command byte, read back (R50, R79). -/
def flagsOf (c : Byte) : CmdFlags where
  clear := c.getLsbD 6
  word := c.getLsbD 5
  block := c.getLsbD 4

/-- `decode_cmd`, the derived decoder of command bytes (R50). -/
def decodeCmd (c : Byte) : CmdReport :=
  if c.getLsbD 7 = false then .notCommand
  else
    match regOf (c.extractLsb' 0 4) with
    | none => .reservedAddress (c.extractLsb' 0 4) (flagsOf c)
    | some r => .command r (flagsOf c)

end Sys2Proof.Machine
end

