-- ==== Sys2Proof/Machine/Ops.lean ====
section
/-! DEFINITION. The operations the meanings share: the codec's four formulas, handing a result back, and one bus transaction
with what the peripheral makes of it. -/

namespace Sys2Proof.Machine

/-- `BUILDCMD`'s formula (spec/41_command_byte.md R73). -/
def commandByte (r : Reg) (f : CmdFlags) : Byte :=
  addrOf r ||| packFlags f ||| commandValid

/-- `DECODEWORD`'s formula, both bytes zero-extended first (spec/42_word_codec.md R81). -/
def joinBytes (lo hi : Byte) : Word :=
  hi.setWidth 16 <<< 8 ||| lo.setWidth 16

/-- `ENCODEWORD`'s low byte, `w & 0x00FF` (R82). -/
def lowByte (w : Word) : Byte := (w &&& 0x00FF).setWidth 8

/-- `ENCODEWORD`'s high byte, `w >> 8` (R82). -/
def highByte (w : Word) : Byte := (w >>> 8).setWidth 8

/-- `ENCTIMING`'s formula (spec/43_timing_byte.md R87). -/
def timingByte (i : Integ) (g : Gain) : Byte :=
  (integCode i).setWidth 8 ||| (gainCode g).setWidth 8 <<< 4

/-- Hand a result back. Nothing else changes: an operation "writes only its result" (spec/00_scope.md R9). -/
def deliver (r : Result) (s : State) : State :=
  { s with results := s.results ++ [r] }

/-- A codec operation ends: its result is handed back, and it cannot fail (spec/60_exceptions.md R106). -/
def answer (r : Result) (s : State) : Host.Outcome State Fault Refusal :=
  .next (deliver r s)

/-- "Taking an exception", as far as this hardware has one: the environment's BusTransactionError is handed to the caller at
once and verbatim; nothing is saved, retried or rolled back (spec/60_exceptions.md R110; spec/44_host_sequences.md R102). There
is no return from it: the next operation starts clean (R111). -/
def surfaceBusError (e : BusError) (s : State) : State :=
  deliver (.busError e) s

/-- The peripheral at a bus address. -/
def periphAt (b : Bank) (a : BusAddr) : Peripheral :=
  match a with
  | .a29 => b.at29
  | .a39 => b.at39
  | .a49 => b.at49

/-- Put a peripheral at a bus address. -/
def setPeriphAt (b : Bank) (a : BusAddr) (p : Peripheral) : Bank :=
  match a with
  | .a29 => { b with at29 := p }
  | .a39 => { b with at39 := p }
  | .a49 => { b with at49 := p }

/-- A peripheral of which nothing is known: every register is a free value (spec/60_exceptions.md R110). -/
def periphUnknown (n : Nat) : Peripheral where
  control := Config.periphByte n .control
  timing := Config.periphByte n .timing
  data0Low := Config.periphByte n .data0Low
  data0High := Config.periphByte n .data0High
  data1Low := Config.periphByte n .data1Low
  data1High := Config.periphByte n .data1High

/-- Power-on, 0x03 written to CONTROL: integration starts (spec/10_state.md R14). The readings are free while it runs; nothing
is promised of the earlier settings, so TIMING is free (spec/60_exceptions.md R118; log 7). -/
def periphPoweredOn (n : Nat) : Peripheral :=
  { periphUnknown n with control := 0x03 }

/-- Power-off, 0x00 written to CONTROL: the sensor readings are zero (spec/10_state.md R14, R24); the device forgets its
settings, so TIMING is free (spec/70_reset_and_hazards.md R122; D22). -/
def periphPoweredOff (n : Nat) : Peripheral :=
  { periphUnknown n with control := 0x00, data0Low := 0, data0High := 0, data1Low := 0, data1High := 0 }

/-- TIMING written: "a direct, full overwrite of the register" (spec/10_state.md R15). The readings move on (log 7). -/
def periphConfigured (n : Nat) (d : Byte) (p : Peripheral) : Peripheral :=
  { periphUnknown n with control := p.control, timing := d }

/-- The device lost its power: CONTROL is 0x00, "after power-down, taken as powered off" (spec/10_state.md R24, its table), the
rest is unspecified (D22). What CONTROL holds once power returns the spec leaves open ("not otherwise specified"; D22), and this
0x00 does not settle it: power returning is an event of its own, `execDevicePowerUp`. That CONTROL keeps the 0x00 for as long as
no such event is presented is the model's choice (DESIGN CHOICE, log 7). -/
def periphPoweredDown (n : Nat) : Peripheral :=
  { periphUnknown n with control := 0x00 }

/-- The six timing bytes the encoder produces (spec/30_encoding.md R48). -/
def isTimingByte (d : Byte) : Bool :=
  [0x00, 0x01, 0x02, 0x10, 0x11, 0x12].contains d

/-- What a peripheral makes of a successful write. The environment issues three kinds only (spec/20_memory.md R30); of any
other the spec says nothing, and nothing is known of the peripheral afterwards (D23). -/
def periphAfterWrite (n : Nat) (bytes : List Byte) (p : Peripheral) : Peripheral :=
  match bytes with
  | [c, d] =>
    if decodeCmd c = .command .control defaultFlags ∧ d = 0x03 then periphPoweredOn n
    else if decodeCmd c = .command .control defaultFlags ∧ d = 0x00 then periphPoweredOff n
    else if decodeCmd c = .command .timing defaultFlags ∧ isTimingByte d = true then periphConfigured n d p
    else periphUnknown n
  | _ => periphUnknown n

/-- What a peripheral holds after a successful write-then-read: the word read of a channel covers its low register and, by the
device's auto-increment, its high one (spec/20_memory.md R27), so the pair holds what came back; the other channel moves on; no
read has a side effect (R32). Any other read is not in the spec (D23). Log 7. -/
def periphAfterRead (n : Nat) (wbytes buf : List Byte) (p : Peripheral) : Peripheral :=
  match wbytes, buf with
  | [c], [lo, hi] =>
    if decodeCmd c = .command .data0Low wordFlag then
      { periphUnknown n with control := p.control, timing := p.timing, data0Low := lo, data0High := hi }
    else if decodeCmd c = .command .data1Low wordFlag then
      { periphUnknown n with control := p.control, timing := p.timing, data1Low := lo, data1High := hi }
    else periphUnknown n
  | _, _ => periphUnknown n

/-- The outcome of the next bus transaction: what the outside world has fixed, else a free draw (D20). -/
def busReplyOf (s : State) : BusReply :=
  match s.busReplies with
  | r :: _ => r
  | [] => Config.busReply s.draws

/-- Exactly `n` bytes read back (spec/44_host_sequences.md R93): those of the outcome, and a free draw where it lists none. -/
def readBuffer (bytes : List Byte) (n : Nat) (s : State) : List Byte :=
  (List.range n).map fun i => bytes.getD i (Config.readByte s.draws i)

/-- A transaction is on the bus: it is noted in the trace, and its outcome is used up. -/
def noteBusCall (c : BusCall) (s : State) : State :=
  { s with busTrace := s.busTrace ++ [c], busReplies := s.busReplies.tail, draws := s.draws + 1 }

/-- Put a peripheral's new registers into the state. -/
def updatePeriph (a : BusAddr) (p : Peripheral) (s : State) : State :=
  { s with bank := setPeriphAt s.bank a p }

/-- `BusWrite(a, bytes)` (R93): the state after it; its outcome is `busReplyOf s`. After a failure the peripheral's registers
are unknown (spec/60_exceptions.md R110). -/
def busWrite (a : BusAddr) (bytes : List Byte) (s : State) : State :=
  match busReplyOf s with
  | .ok _ => noteBusCall (.write a bytes) (updatePeriph a (periphAfterWrite s.draws bytes (periphAt s.bank a)) s)
  | .err _ => noteBusCall (.write a bytes) (updatePeriph a (periphUnknown s.draws) s)

/-- `BusWriteRead(a, wbytes, n)` (R93): the state after it; its outcome is `busReplyOf s`, its bytes `readBuffer`. -/
def busWriteRead (a : BusAddr) (wbytes : List Byte) (n : Nat) (s : State) : State :=
  match busReplyOf s with
  | .ok bytes =>
    noteBusCall (.writeRead a wbytes n)
      (updatePeriph a (periphAfterRead s.draws wbytes (readBuffer bytes n s) (periphAt s.bank a)) s)
  | .err _ => noteBusCall (.writeRead a wbytes n) (updatePeriph a (periphUnknown s.draws) s)

/-- A handle operation that is one write: success with no value, or the bus error (R97, R98, R101). -/
def writeOperation (a : BusAddr) (bytes : List Byte) (s : State) : State :=
  match busReplyOf s with
  | .ok _ => deliver .ok (busWrite a bytes s)
  | .err e => surfaceBusError e (busWrite a bytes s)

/-- A handle operation that reads one channel: the two bytes of the buffer go through `DECODEWORD`, index 0 the low byte
(R85, R99, R100); on a bus error no count exists. -/
def readOperation (a : BusAddr) (low : Reg) (s : State) : State :=
  match busReplyOf s with
  | .ok bytes =>
    deliver (.count (joinBytes ((readBuffer bytes 2 s).getD 0 0) ((readBuffer bytes 2 s).getD 1 0)))
      (busWriteRead a [commandByte low wordFlag] 2 s)
  | .err e => surfaceBusError e (busWriteRead a [commandByte low wordFlag] 2 s)

end Sys2Proof.Machine
end

