-- ==== Sys2Proof/Machine/Codec.lean ====
section
/-! DEFINITION. The codec's five operations (spec/00_scope.md R3): each hands back its result and does nothing else. -/

namespace Sys2Proof.Machine

/-- `ADDROF r` (spec/40_register_address.md R56). -/
def execAddrOf (r : Reg) (s : State) : Host.Outcome State Fault Refusal :=
  answer (.addr (addrOf r)) s

/-- `BUILDCMD r, word, clear, block` (spec/41_command_byte.md R73). -/
def execBuildCmd (r : Reg) (f : CmdFlags) (s : State) : Host.Outcome State Fault Refusal :=
  answer (.cmd (commandByte r f)) s

/-- `DECODEWORD lo, hi` (spec/42_word_codec.md R81). -/
def execDecodeWord (lo hi : Byte) (s : State) : Host.Outcome State Fault Refusal :=
  answer (.word (joinBytes lo hi)) s

/-- `ENCODEWORD w` (spec/42_word_codec.md R82). -/
def execEncodeWord (w : Word) (s : State) : Host.Outcome State Fault Refusal :=
  answer (.bytePair (lowByte w) (highByte w)) s

/-- `ENCTIMING i, g` (spec/43_timing_byte.md R87). -/
def execEncTiming (i : Integ) (g : Gain) (s : State) : Host.Outcome State Fault Refusal :=
  answer (.timing (timingByte i g)) s

end Sys2Proof.Machine
end

