-- ==== Sys2Proof/Machine/CommandByte.lean ====
section
/-! DEFINITION. The seventeen command-byte rows: what the derived decoder `decode_cmd` reports of each (spec/30_encoding.md
R50). A report changes nothing else: what the byte does to a peripheral depends on the transaction it opens, and belongs to the
bus operations of Ops.lean. -/

namespace Sys2Proof.Machine

/-- A valid command byte names a register and three flags (R50). -/
def reportCommand (r : Reg) (f : CmdFlags) (s : State) : Host.Outcome State Fault Refusal :=
  answer (.report (.command r f)) s

/-- A reserved address is reported as such and is no register (R45, R50). -/
def reportReserved (a : BitVec 4) (f : CmdFlags) (s : State) : Host.Outcome State Fault Refusal :=
  answer (.report (.reservedAddress a f)) s

/-- `CMD.CONTROL` (R57, R50). -/
def execCmdControl (f : CmdFlags) (s : State) : Host.Outcome State Fault Refusal :=
  reportCommand .control f s

/-- `CMD.TIMING` (R58, R50). -/
def execCmdTiming (f : CmdFlags) (s : State) : Host.Outcome State Fault Refusal :=
  reportCommand .timing f s

/-- `CMD.THRESHLOWLOW` (R59, R50). -/
def execCmdThreshLowLow (f : CmdFlags) (s : State) : Host.Outcome State Fault Refusal :=
  reportCommand .threshLowLow f s

/-- `CMD.THRESHLOWHIGH` (R60, R50). -/
def execCmdThreshLowHigh (f : CmdFlags) (s : State) : Host.Outcome State Fault Refusal :=
  reportCommand .threshLowHigh f s

/-- `CMD.THRESHHIGHLOW` (R61, R50). -/
def execCmdThreshHighLow (f : CmdFlags) (s : State) : Host.Outcome State Fault Refusal :=
  reportCommand .threshHighLow f s

/-- `CMD.THRESHHIGHHIGH` (R62, R50). -/
def execCmdThreshHighHigh (f : CmdFlags) (s : State) : Host.Outcome State Fault Refusal :=
  reportCommand .threshHighHigh f s

/-- `CMD.INTERRUPT` (R63, R50). -/
def execCmdInterrupt (f : CmdFlags) (s : State) : Host.Outcome State Fault Refusal :=
  reportCommand .interrupt f s

/-- `CMD.CRC` (R64, R50). -/
def execCmdCrc (f : CmdFlags) (s : State) : Host.Outcome State Fault Refusal :=
  reportCommand .crc f s

/-- `CMD.ID` (R65, R50). -/
def execCmdId (f : CmdFlags) (s : State) : Host.Outcome State Fault Refusal :=
  reportCommand .id f s

/-- `CMD.DATA0LOW` (R66, R50). -/
def execCmdData0Low (f : CmdFlags) (s : State) : Host.Outcome State Fault Refusal :=
  reportCommand .data0Low f s

/-- `CMD.DATA0HIGH` (R67, R50). -/
def execCmdData0High (f : CmdFlags) (s : State) : Host.Outcome State Fault Refusal :=
  reportCommand .data0High f s

/-- `CMD.DATA1LOW` (R68, R50). -/
def execCmdData1Low (f : CmdFlags) (s : State) : Host.Outcome State Fault Refusal :=
  reportCommand .data1Low f s

/-- `CMD.DATA1HIGH` (R69, R50). -/
def execCmdData1High (f : CmdFlags) (s : State) : Host.Outcome State Fault Refusal :=
  reportCommand .data1High f s

/-- `CMD.RESERVED_7` (R45, R50). -/
def execCmdReserved7 (f : CmdFlags) (s : State) : Host.Outcome State Fault Refusal :=
  reportReserved 0x7 f s

/-- `CMD.RESERVED_9` (R45, R50). -/
def execCmdReserved9 (f : CmdFlags) (s : State) : Host.Outcome State Fault Refusal :=
  reportReserved 0x9 f s

/-- `CMD.RESERVED_B` (R45, R50). -/
def execCmdReservedB (f : CmdFlags) (s : State) : Host.Outcome State Fault Refusal :=
  reportReserved 0xB f s

/-- `NOTCMD` (R46, R50): whatever the other seven bits are, the report is `NotCommand`. -/
def execNotCmd (_low : BitVec 7) (s : State) : Host.Outcome State Fault Refusal :=
  answer (.report .notCommand) s

end Sys2Proof.Machine
end

