-- ==== Sys2Proof/Machine/Dispatch.lean ====
section
/-! DEFINITION. One arm for each constructor of `Instr`. -/

namespace Sys2Proof.Machine

def exec (i : Instr) (s : State) : Host.Outcome State Fault Refusal :=
  match i with
  | .cmdControl f => Sys2Proof.Machine.execCmdControl f s
  | .cmdTiming f => Sys2Proof.Machine.execCmdTiming f s
  | .cmdThreshLowLow f => Sys2Proof.Machine.execCmdThreshLowLow f s
  | .cmdThreshLowHigh f => Sys2Proof.Machine.execCmdThreshLowHigh f s
  | .cmdThreshHighLow f => Sys2Proof.Machine.execCmdThreshHighLow f s
  | .cmdThreshHighHigh f => Sys2Proof.Machine.execCmdThreshHighHigh f s
  | .cmdInterrupt f => Sys2Proof.Machine.execCmdInterrupt f s
  | .cmdCrc f => Sys2Proof.Machine.execCmdCrc f s
  | .cmdId f => Sys2Proof.Machine.execCmdId f s
  | .cmdData0Low f => Sys2Proof.Machine.execCmdData0Low f s
  | .cmdData0High f => Sys2Proof.Machine.execCmdData0High f s
  | .cmdData1Low f => Sys2Proof.Machine.execCmdData1Low f s
  | .cmdData1High f => Sys2Proof.Machine.execCmdData1High f s
  | .cmdReserved7 f => Sys2Proof.Machine.execCmdReserved7 f s
  | .cmdReserved9 f => Sys2Proof.Machine.execCmdReserved9 f s
  | .cmdReservedB f => Sys2Proof.Machine.execCmdReservedB f s
  | .notCmd low => Sys2Proof.Machine.execNotCmd low s
  | .addrOf r => Sys2Proof.Machine.execAddrOf r s
  | .buildCmd r f => Sys2Proof.Machine.execBuildCmd r f s
  | .decodeWord lo hi => Sys2Proof.Machine.execDecodeWord lo hi s
  | .encodeWord w => Sys2Proof.Machine.execEncodeWord w s
  | .encTiming t g => Sys2Proof.Machine.execEncTiming t g s

end Sys2Proof.Machine
end

