-- ==== Sys2Proof/Machine/Environment.lean ====
section
/-! DEFINITION. The operations of the codec's environment (spec/44_host_sequences.md R96 to R105): each evaluates codec
formulas and issues at most one bus transaction. -/

namespace Sys2Proof.Machine

/-- A call on a handle: its bus address is the one it was constructed with (R95, R123). -/
def onHandle (h : Nat) (k : BusAddr → State → State) (s : State) : Host.Outcome State Fault Refusal :=
  match s.handles[h]? with
  | some (some a) => .next (k a s)
  | _ => .refused (.noSuchHandle h)

/-- The write bytes of `powerOn()`: `BUILDCMD CONTROL`, then 0x03 (R97). -/
def powerOnBytes : List Byte := [commandByte .control defaultFlags, 0x03]

/-- The write bytes of `powerOff()`: `BUILDCMD CONTROL`, then 0x00 (R98). -/
def powerOffBytes : List Byte := [commandByte .control defaultFlags, 0x00]

/-- The write bytes of `configureTimingAndGain`: `BUILDCMD TIMING`, then `ENCTIMING i, g` (R101). -/
def configureBytes (i : Integ) (g : Gain) : List Byte := [commandByte .timing defaultFlags, timingByte i g]

/-- A new handle that holds a bus address (R96, R123). -/
def addHandle (a : BusAddr) (s : State) : State :=
  deliver (.constructed s.handles.length) { s with handles := s.handles ++ [some a] }

/-- `construct` at a defined bus address, for either value of CONSTRUCT_POWERS_ON (R96): when true it performs exactly
`powerOn()`'s write and fails if that fails; when false it touches neither codec nor bus. -/
def constructAt (powersOn : Bool) (a : BusAddr) (s : State) : State :=
  if powersOn then
    match busReplyOf s with
    | .ok _ => addHandle a (busWrite a powerOnBytes s)
    | .err e => deliver (.constructFailed e) (busWrite a powerOnBytes s)
  else addHandle a s

/-- `construct(bus, address = 0x39)` (R96); an address outside the three is refused (R95; D18). -/
def execConstruct (powersOn : Bool) (address : Option (BitVec 7)) (s : State) : Host.Outcome State Fault Refusal :=
  match address with
  | none => .next (constructAt powersOn defaultBusAddr s)
  | some v =>
    match busAddrOf v with
    | some a => .next (constructAt powersOn a s)
    | none => .refused (.notABusAddress v)

/-- `powerOn()` (R97). -/
def execPowerOn (h : Nat) (s : State) : Host.Outcome State Fault Refusal :=
  onHandle h (fun a => writeOperation a powerOnBytes) s

/-- `powerOff()` (R98). -/
def execPowerOff (h : Nat) (s : State) : Host.Outcome State Fault Refusal :=
  onHandle h (fun a => writeOperation a powerOffBytes) s

/-- `readVisibleAndIrRaw()`, channel 0 (R99). -/
def execReadVisibleAndIrRaw (h : Nat) (s : State) : Host.Outcome State Fault Refusal :=
  onHandle h (fun a => readOperation a .data0Low) s

/-- `readIrRaw()`, channel 1 (R100). -/
def execReadIrRaw (h : Nat) (s : State) : Host.Outcome State Fault Refusal :=
  onHandle h (fun a => readOperation a .data1Low) s

/-- `configureTimingAndGain(i, g)` (R101). -/
def execConfigureTimingAndGain (h : Nat) (i : Integ) (g : Gain) (s : State) : Host.Outcome State Fault Refusal :=
  onHandle h (fun a => writeOperation a (configureBytes i g)) s

/-- A handle is no more; nothing else changes (spec/70_reset_and_hazards.md R128). -/
def forgetHandle (h : Nat) (s : State) : State :=
  deliver .happened { s with handles := s.handles.set h none }

/-- A handle is dropped: nothing is sent and the device stays as it was (R128). -/
def execDropHandle (h : Nat) (s : State) : Host.Outcome State Fault Refusal :=
  onHandle h (fun _ => forgetHandle h) s

/-- The device at a bus address loses its power (spec/70_reset_and_hazards.md R122). -/
def execDevicePowerDown (a : BusAddr) (s : State) : Host.Outcome State Fault Refusal :=
  .next (deliver .happened { updatePeriph a (periphPoweredDown s.draws) s with draws := s.draws + 1 })

/-- The device at a bus address gets its power back: the contents of every register, CONTROL too, are unspecified
(spec/10_state.md R24; 92_eei_decisions.md D22), so each is a free value. Log 7. -/
def execDevicePowerUp (a : BusAddr) (s : State) : Host.Outcome State Fault Refusal :=
  .next (deliver .happened { updatePeriph a (periphUnknown s.draws) s with draws := s.draws + 1 })

/-- One operation of the environment. -/
def execEnv (op : EnvOp) (s : State) : Host.Outcome State Fault Refusal :=
  match op with
  | .construct address => execConstruct Config.constructPowersOn address s
  | .powerOn h => execPowerOn h s
  | .powerOff h => execPowerOff h s
  | .readVisibleAndIrRaw h => execReadVisibleAndIrRaw h s
  | .readIrRaw h => execReadIrRaw h s
  | .configureTimingAndGain h i g => execConfigureTimingAndGain h i g s
  | .dropHandle h => execDropHandle h s
  | .devicePowerDown a => execDevicePowerDown a s
  | .devicePowerUp a => execDevicePowerUp a s

end Sys2Proof.Machine
end

