-- ==== Sys2Proof/Machine/Present.lean ====
section
/-! DEFINITION. What a step does with what the environment presents (spec/10_state.md R12; spec/92_eei_decisions.md D2). -/

namespace Sys2Proof.Machine

/-- Run what was decoded, or refuse by the reject's name (spec/60_exceptions.md R119). -/
def runDecoded (d : Except Reject Instr) (s : State) : Host.Outcome State Fault Refusal :=
  match d with
  | .ok i => exec i s
  | .error r => .refused (.rejected r)

/-- One presented input. -/
def runInput (x : Input) (s : State) : Host.Outcome State Fault Refusal :=
  match x with
  | .ports p => runDecoded (decodePorts p) s
  | .word fn bytes => runDecoded (decode fn bytes) s
  | .env op => execEnv op s

/-- One step: take the next presented input and run it. Where nothing is presented nothing is evaluated and nothing changes
(R12; DEDUCED, log 3). -/
def runNext (s : State) : Host.Outcome State Fault Refusal :=
  match s.inputs with
  | [] => .next s
  | x :: rest => runInput x { s with inputs := rest }

/-- Present a bare table word next. -/
def presentTableWord (nbits w : Nat) (s : State) : State :=
  { s with inputs := .word (tableFn nbits) (tableBytes nbits w) :: s.inputs }

end Sys2Proof.Machine
end

