-- ==== Sys2Proof/Machine/Step.lean ====
section
/-! DEFINITION. One step of the machine, and the placing of one word where the next step reads it. -/

namespace Sys2Proof.Machine

/-- One step (spec/92_eei_decisions.md D2: one request, one response). -/
def step (s : State) : Host.Outcome State Fault Refusal := runNext s

/-- `s` with the table word `w` of `nbits` bits presented next, so that the next step decodes and runs exactly it (log 2, 3). -/
def State.withFetchWord (s : State) (nbits w : Nat) : State := presentTableWord nbits w s

end Sys2Proof.Machine
end

