-- ==== Sys2Proof/Safety.lean ====
section
/-! DEFINITION. What the spec says of a whole run, in the terms the statements use. -/

namespace Sys2Proof.Machine

/-- The ten bus transactions the environment can ever issue at a bus address, their bytes written out
(spec/95_test_vectors.md section 3.6, H1 to H10). -/
def legalBusCalls (a : BusAddr) : List BusCall :=
  [ .write a [0x80, 0x03], .write a [0x80, 0x00], .writeRead a [0xAC] 2, .writeRead a [0xAE] 2,
    .write a [0x81, 0x00], .write a [0x81, 0x01], .write a [0x81, 0x02],
    .write a [0x81, 0x10], .write a [0x81, 0x11], .write a [0x81, 0x12] ]

/-- A transaction the environment can issue. -/
def LegalBusCall (c : BusCall) : Prop := ∃ a, c ∈ legalBusCalls a

/-- Every transaction so far is one the environment can issue. -/
def TraceLegal (s : State) : Prop := ∀ c ∈ s.busTrace, LegalBusCall c

/-- The bus address a transaction goes to. -/
def busCallAddr (c : BusCall) : BusAddr :=
  match c with
  | .write a _ => a
  | .writeRead a _ _ => a

/-- The bytes a transaction sends; the first is the command byte (spec/44_host_sequences.md R94). -/
def busCallBytes (c : BusCall) : List Byte :=
  match c with
  | .write _ bytes => bytes
  | .writeRead _ wbytes _ => wbytes

/-- The handle that an environment operation is a call on. -/
def handleOf (op : EnvOp) : Option Nat :=
  match op with
  | .powerOn h => some h
  | .powerOff h => some h
  | .readVisibleAndIrRaw h => some h
  | .readIrRaw h => some h
  | .configureTimingAndGain h _ _ => some h
  | .dropHandle h => some h
  | .construct _ => none
  | .devicePowerDown _ => none
  | .devicePowerUp _ => none

/-- Construction with this address argument makes a handle at `a`: the address is given, or none is and `a` is the default
(spec/44_host_sequences.md R96). -/
def ConstructsAt (address : Option (BitVec 7)) (a : BusAddr) : Prop :=
  address = some (busAddrBits a) ∨ (address = none ∧ a = defaultBusAddr)

/-- The five handle operations that touch the bus (spec/44_host_sequences.md R97 to R101, R103). -/
def transacts (op : EnvOp) : Bool :=
  match op with
  | .powerOn _ => true
  | .powerOff _ => true
  | .readVisibleAndIrRaw _ => true
  | .readIrRaw _ => true
  | .configureTimingAndGain _ _ _ => true
  | .construct _ => false
  | .dropHandle _ => false
  | .devicePowerDown _ => false
  | .devicePowerUp _ => false

/-- An input the spec gives a meaning to: ports and words inside the operand domains (spec/30_encoding.md R52), a defined bus
address (spec/44_host_sequences.md R95), a handle that exists. -/
def InputAccepted (s : State) (x : Input) : Prop :=
  match x with
  | .ports p => p.wellFormed = true
  | .word fn bytes => ∃ i, decode fn bytes = .ok i
  | .env op => op.wellFormed = true ∧ ∀ h, handleOf op = some h → ∃ a, s.handles[h]? = some (some a)

/-- A state whose next input has a meaning (or that has none left). A step from it is never refused. -/
def Accepted (s : State) : Prop := ∀ x rest, s.inputs = x :: rest → InputAccepted s x

/-- The eight flag settings in the order of spec/95_test_vectors.md section 3.2: (clear, word, block) = 000 to 111. -/
def eightFlags : List CmdFlags :=
  [ ⟨false, false, false⟩, ⟨false, false, true⟩, ⟨false, true, false⟩, ⟨false, true, true⟩,
    ⟨true, false, false⟩, ⟨true, false, true⟩, ⟨true, true, false⟩, ⟨true, true, true⟩ ]

/-- A register has the address `a` and the command bytes `bytes`, one for each of `eightFlags`: what `ADDROF` and `BUILDCMD`
hand back for it (spec/40_register_address.md R57 to R69). -/
def HasCommandBytes (r : Reg) (a : Byte) (bytes : List Byte) : Prop :=
  ∀ s, exec (.addrOf r) s = .next { s with results := s.results ++ [.addr a] } ∧
    ∀ p ∈ eightFlags.zip bytes,
      exec (.buildCmd r p.1) s = .next { s with results := s.results ++ [.cmd p.2] } ∧ p.2 &&& 0x8F = 0x80 ||| a

end Sys2Proof.Machine
end

