-- ==== Sys2Proof/Certificates/Slice0/Obligations.lean ====
section
/-! DEFINITION. The statements about this model, for the provers. Each names the rule of spec/ it formalises, or the sections
it rests on. An instruction's result is stated as the next state it gives: the same state with one result more, so each such
statement is also the instruction's frame and says where it completes. -/

open Sys2Proof Sys2Proof.Machine

/-! ## The codec's operations -/

/-- R56: the address of each of the thirteen identifiers; nothing else changes and nothing can fail. (That the result is a byte
and not four bits is the spec's decision D7.) -/
def Obligations.AddrofReturnsTheConstantTable : Prop :=
  ∀ s : State,
    exec (.addrOf .control) s = .next { s with results := s.results ++ [.addr 0x00] } ∧
    exec (.addrOf .timing) s = .next { s with results := s.results ++ [.addr 0x01] } ∧
    exec (.addrOf .threshLowLow) s = .next { s with results := s.results ++ [.addr 0x02] } ∧
    exec (.addrOf .threshLowHigh) s = .next { s with results := s.results ++ [.addr 0x03] } ∧
    exec (.addrOf .threshHighLow) s = .next { s with results := s.results ++ [.addr 0x04] } ∧
    exec (.addrOf .threshHighHigh) s = .next { s with results := s.results ++ [.addr 0x05] } ∧
    exec (.addrOf .interrupt) s = .next { s with results := s.results ++ [.addr 0x06] } ∧
    exec (.addrOf .crc) s = .next { s with results := s.results ++ [.addr 0x08] } ∧
    exec (.addrOf .id) s = .next { s with results := s.results ++ [.addr 0x0A] } ∧
    exec (.addrOf .data0Low) s = .next { s with results := s.results ++ [.addr 0x0C] } ∧
    exec (.addrOf .data0High) s = .next { s with results := s.results ++ [.addr 0x0D] } ∧
    exec (.addrOf .data1Low) s = .next { s with results := s.results ++ [.addr 0x0E] } ∧
    exec (.addrOf .data1High) s = .next { s with results := s.results ++ [.addr 0x0F] }

/-- R71 (a) to (f). `regEnc` is the source's listing order. -/
def Obligations.AddressMapLaws : Prop :=
  (∀ r, (addrOf r).extractLsb' 4 4 = 0) ∧
  (∀ r1 r2, addrOf r1 = addrOf r2 → r1 = r2) ∧
  (∀ a : BitVec 4, (∀ r, addrOf r ≠ a.setWidth 8) ↔ a = 0x7 ∨ a = 0x9 ∨ a = 0xB) ∧
  (∀ r1 r2, (regEnc r1).toNat < (regEnc r2).toNat → (addrOf r1).toNat < (addrOf r2).toNat) ∧
  (addrOf .data0High = addrOf .data0Low + 1 ∧ addrOf .data1High = addrOf .data1Low + 1 ∧
    addrOf .threshLowHigh = addrOf .threshLowLow + 1 ∧ addrOf .threshHighHigh = addrOf .threshHighLow + 1) ∧
  (∀ r, regOf ((addrOf r).extractLsb' 0 4) = some r) ∧
  (∀ a r, regOf a = some r → addrOf r = a.setWidth 8)

/-- 40_register_address.md section 3: the inverse on all sixteen 4-bit values; `none` is `Reserved`. That the three gaps name no
register, no default and no neighbour is the spec's own decision D19. -/
def Obligations.RegOfFullTable : Prop :=
  regOf 0x0 = some .control ∧ regOf 0x1 = some .timing ∧ regOf 0x2 = some .threshLowLow ∧
  regOf 0x3 = some .threshLowHigh ∧ regOf 0x4 = some .threshHighLow ∧ regOf 0x5 = some .threshHighHigh ∧
  regOf 0x6 = some .interrupt ∧ regOf 0x7 = none ∧ regOf 0x8 = some .crc ∧ regOf 0x9 = none ∧
  regOf 0xA = some .id ∧ regOf 0xB = none ∧ regOf 0xC = some .data0Low ∧ regOf 0xD = some .data0High ∧
  regOf 0xE = some .data1Low ∧ regOf 0xF = some .data1High

/-- R73: the five fields of the command byte, for every register and every flag setting. (That no combination is refused is also
R80, the spec's decision D23.) -/
def Obligations.BuildcmdPacksAddressAndFlags : Prop :=
  ∀ (r : Reg) (f : CmdFlags), ∃ b : Byte,
    (∀ s, exec (.buildCmd r f) s = .next { s with results := s.results ++ [.cmd b] }) ∧
    b.getLsbD 7 = true ∧ b.getLsbD 6 = f.clear ∧ b.getLsbD 5 = f.word ∧ b.getLsbD 4 = f.block ∧
    (b.extractLsb' 0 4).setWidth 8 = addrOf r ∧ 0x80 ≤ b.toNat ∧
    b.extractLsb' 0 4 ≠ 0x7 ∧ b.extractLsb' 0 4 ≠ 0x9 ∧ b.extractLsb' 0 4 ≠ 0xB

/-- R79: disjoint fields. The OR is the arithmetic sum, each operand reads back, a flag adds its own bit only, and the encoder
is injective. -/
def Obligations.BuildcmdFieldsAreIndependent : Prop :=
  (∀ (r : Reg) (f : CmdFlags) (s : State),
    exec (.buildCmd r f) s = .next { s with results := s.results ++ [.cmd (commandByte r f)] }) ∧
  (∀ (r : Reg) (f : CmdFlags), (commandByte r f).toNat =
    128 + 64 * f.clear.toNat + 32 * f.word.toNat + 16 * f.block.toNat + (addrOf r).toNat) ∧
  (∀ (r : Reg) (f : CmdFlags), commandByte r f =
    commandByte r ⟨false, false, false⟩ ||| (if f.word then 0x20 else 0) ||| (if f.clear then 0x40 else 0) |||
      (if f.block then 0x10 else 0)) ∧
  (∀ (r : Reg) (f : CmdFlags), commandByte r f &&& 0x0F = addrOf r ∧ (commandByte r f).getLsbD 6 = f.clear ∧
    (commandByte r f).getLsbD 5 = f.word ∧ (commandByte r f).getLsbD 4 = f.block) ∧
  (∀ (r r' : Reg) (f f' : CmdFlags), commandByte r f = commandByte r' f' → r = r' ∧ f = f')

/-- R78: default flags, and a flag not named is false. -/
def Obligations.DefaultFlagsGiveThirteenBytes : Prop :=
  ∀ s : State,
    exec (.buildCmd .control ⟨false, false, false⟩) s = .next { s with results := s.results ++ [.cmd 0x80] } ∧
    exec (.buildCmd .timing ⟨false, false, false⟩) s = .next { s with results := s.results ++ [.cmd 0x81] } ∧
    exec (.buildCmd .threshLowLow ⟨false, false, false⟩) s = .next { s with results := s.results ++ [.cmd 0x82] } ∧
    exec (.buildCmd .threshLowHigh ⟨false, false, false⟩) s = .next { s with results := s.results ++ [.cmd 0x83] } ∧
    exec (.buildCmd .threshHighLow ⟨false, false, false⟩) s = .next { s with results := s.results ++ [.cmd 0x84] } ∧
    exec (.buildCmd .threshHighHigh ⟨false, false, false⟩) s = .next { s with results := s.results ++ [.cmd 0x85] } ∧
    exec (.buildCmd .interrupt ⟨false, false, false⟩) s = .next { s with results := s.results ++ [.cmd 0x86] } ∧
    exec (.buildCmd .crc ⟨false, false, false⟩) s = .next { s with results := s.results ++ [.cmd 0x88] } ∧
    exec (.buildCmd .id ⟨false, false, false⟩) s = .next { s with results := s.results ++ [.cmd 0x8A] } ∧
    exec (.buildCmd .data0Low ⟨false, false, false⟩) s = .next { s with results := s.results ++ [.cmd 0x8C] } ∧
    exec (.buildCmd .data0High ⟨false, false, false⟩) s = .next { s with results := s.results ++ [.cmd 0x8D] } ∧
    exec (.buildCmd .data1Low ⟨false, false, false⟩) s = .next { s with results := s.results ++ [.cmd 0x8E] } ∧
    exec (.buildCmd .data1High ⟨false, false, false⟩) s = .next { s with results := s.results ++ [.cmd 0x8F] } ∧
    exec (.buildCmd .data0Low ⟨false, true, false⟩) s = .next { s with results := s.results ++ [.cmd 0xAC] }

/-- R59 to R65: address, pattern and eight command bytes of the seven registers that no operation of the driver uses: no step
issues a transaction whose command byte names one of them. -/
def Obligations.ThresholdInterruptCrcIdBytes : Prop :=
  (HasCommandBytes .threshLowLow 0x02 [0x82, 0x92, 0xA2, 0xB2, 0xC2, 0xD2, 0xE2, 0xF2] ∧
   HasCommandBytes .threshLowHigh 0x03 [0x83, 0x93, 0xA3, 0xB3, 0xC3, 0xD3, 0xE3, 0xF3] ∧
   HasCommandBytes .threshHighLow 0x04 [0x84, 0x94, 0xA4, 0xB4, 0xC4, 0xD4, 0xE4, 0xF4] ∧
   HasCommandBytes .threshHighHigh 0x05 [0x85, 0x95, 0xA5, 0xB5, 0xC5, 0xD5, 0xE5, 0xF5] ∧
   HasCommandBytes .interrupt 0x06 [0x86, 0x96, 0xA6, 0xB6, 0xC6, 0xD6, 0xE6, 0xF6] ∧
   HasCommandBytes .crc 0x08 [0x88, 0x98, 0xA8, 0xB8, 0xC8, 0xD8, 0xE8, 0xF8] ∧
   HasCommandBytes .id 0x0A [0x8A, 0x9A, 0xAA, 0xBA, 0xCA, 0xDA, 0xEA, 0xFA]) ∧
  ∀ (s t : State) (new : List BusCall), step s = .next t → t.busTrace = s.busTrace ++ new →
    ∀ call ∈ new, ∃ c, (busCallBytes call).head? = some c ∧
      c &&& 0x0F ∉ ([0x02, 0x03, 0x04, 0x05, 0x06, 0x08, 0x0A] : List Byte)

/-- The address, pattern and eight command bytes of the registers the environment uses or reaches
(40_register_address.md section 2, R57, R58, R66 to R69). -/
def Obligations.ControlTimingDataBytes : Prop :=
  HasCommandBytes .control 0x00 [0x80, 0x90, 0xA0, 0xB0, 0xC0, 0xD0, 0xE0, 0xF0] ∧
  HasCommandBytes .timing 0x01 [0x81, 0x91, 0xA1, 0xB1, 0xC1, 0xD1, 0xE1, 0xF1] ∧
  HasCommandBytes .data0Low 0x0C [0x8C, 0x9C, 0xAC, 0xBC, 0xCC, 0xDC, 0xEC, 0xFC] ∧
  HasCommandBytes .data0High 0x0D [0x8D, 0x9D, 0xAD, 0xBD, 0xCD, 0xDD, 0xED, 0xFD] ∧
  HasCommandBytes .data1Low 0x0E [0x8E, 0x9E, 0xAE, 0xBE, 0xCE, 0xDE, 0xEE, 0xFE] ∧
  HasCommandBytes .data1High 0x0F [0x8F, 0x9F, 0xAF, 0xBF, 0xCF, 0xDF, 0xEF, 0xFF]

/-- R81, R84: the word of every byte pair. (The 16-bit width of the intermediate is the spec's decision D8.) -/
def Obligations.DecodewordJoinsLowByteFirst : Prop :=
  ∀ lo hi : Byte, ∃ w : Word,
    (∀ s, exec (.decodeWord lo hi) s = .next { s with results := s.results ++ [.word w] }) ∧
    w.toNat = 256 * hi.toNat + lo.toNat ∧ w.extractLsb' 8 8 = hi ∧ w.extractLsb' 0 8 = lo

/-- 42_word_codec.md section 2: the byte pair of every word. That the codec has this operation is the spec's own decision D6; its
definition is the only one with the round-trip law. -/
def Obligations.EncodewordSplitsLowByteFirst : Prop :=
  ∀ w : Word, ∃ lo hi : Byte,
    (∀ s, exec (.encodeWord w) s = .next { s with results := s.results ++ [.bytePair lo hi] }) ∧
    lo = w.extractLsb' 0 8 ∧ hi = w.extractLsb' 8 8 ∧ lo.toNat = w.toNat % 256 ∧ hi.toNat = w.toNat / 256

/-- R83: each operation undoes the other, for every word and every byte pair. -/
def Obligations.WordCodecRoundTripBothWays : Prop :=
  (∀ w : Word, ∃ lo hi : Byte, ∀ s,
    exec (.encodeWord w) s = .next { s with results := s.results ++ [.bytePair lo hi] } ∧
    exec (.decodeWord lo hi) s = .next { s with results := s.results ++ [.word w] }) ∧
  (∀ lo hi : Byte, ∃ w : Word, ∀ s,
    exec (.decodeWord lo hi) s = .next { s with results := s.results ++ [.word w] } ∧
    exec (.encodeWord w) s = .next { s with results := s.results ++ [.bytePair lo hi] })

/-- R86: no carry between the bytes, the three numeric forms agree, and the order is lexicographic. -/
def Obligations.DecodewordOrderAndForms : Prop :=
  ∃ word : Byte → Byte → Word,
    (∀ lo hi s, exec (.decodeWord lo hi) s = .next { s with results := s.results ++ [.word (word lo hi)] }) ∧
    (∀ lo hi, (word lo hi).extractLsb' 8 8 = hi ∧ (word lo hi).toNat = 256 * hi.toNat + lo.toNat ∧
      word lo hi = (hi.setWidth 16 <<< 8 ||| lo.setWidth 16) ∧ word lo hi = (hi.setWidth 16 <<< 8) + lo.setWidth 16) ∧
    (∀ lo1 hi1 lo2 hi2, (word lo1 hi1).toNat < (word lo2 hi2).toNat ↔
      hi1.toNat < hi2.toNat ∨ (hi1 = hi2 ∧ lo1.toNat < lo2.toNat))

/-- R91: all six operand combinations, injective, both codes read back. -/
def Obligations.EnctimingCompleteFunction : Prop :=
  (∀ s : State,
    exec (.encTiming .ms13 .low) s = .next { s with results := s.results ++ [.timing 0x00] } ∧
    exec (.encTiming .ms101 .low) s = .next { s with results := s.results ++ [.timing 0x01] } ∧
    exec (.encTiming .ms402 .low) s = .next { s with results := s.results ++ [.timing 0x02] } ∧
    exec (.encTiming .ms13 .high) s = .next { s with results := s.results ++ [.timing 0x10] } ∧
    exec (.encTiming .ms101 .high) s = .next { s with results := s.results ++ [.timing 0x11] } ∧
    exec (.encTiming .ms402 .high) s = .next { s with results := s.results ++ [.timing 0x12] }) ∧
  (∀ i g i' g' (b : Byte), (∀ s, exec (.encTiming i g) s = .next { s with results := s.results ++ [.timing b] }) →
    (∀ s, exec (.encTiming i' g') s = .next { s with results := s.results ++ [.timing b] }) → i = i' ∧ g = g') ∧
  (∀ i g (b : Byte), (∀ s, exec (.encTiming i g) s = .next { s with results := s.results ++ [.timing b] }) →
    b.extractLsb' 0 2 = integCode i ∧ b.extractLsb' 4 1 = gainCode g)

/-- R48, R92: bits 7, 6, 5, 3 and 2 are never set, exactly six bytes are produced, and no other byte has a meaning in this
format. -/
def Obligations.EnctimingProducesExactlySixBytes : Prop :=
  (∀ i g, ∃ b : Byte, (∀ s, exec (.encTiming i g) s = .next { s with results := s.results ++ [.timing b] }) ∧ b &&& 0xEC = 0) ∧
  (∀ b : Byte, (∃ i g, ∀ s, exec (.encTiming i g) s = .next { s with results := s.results ++ [.timing b] }) ↔
    b ∈ [0x00, 0x01, 0x02, 0x10, 0x11, 0x12]) ∧
  (∀ b : Byte, b ∉ [0x00, 0x01, 0x02, 0x10, 0x11, 0x12] → decode .encTiming [b] = .error .timingByteNotProduced)

/-! ## The command-byte rows -/

/-- 30_encoding.md section 4: what each of the thirteen valid rows reports. That the report is such a row's meaning and completes
the step is the model's reading (DEDUCED, log 11). -/
def Obligations.CommandRowsReportTheirRegister : Prop :=
  ∀ (f : CmdFlags) (s : State),
    exec (.cmdControl f) s = .next { s with results := s.results ++ [.report (.command .control f)] } ∧
    exec (.cmdTiming f) s = .next { s with results := s.results ++ [.report (.command .timing f)] } ∧
    exec (.cmdThreshLowLow f) s = .next { s with results := s.results ++ [.report (.command .threshLowLow f)] } ∧
    exec (.cmdThreshLowHigh f) s = .next { s with results := s.results ++ [.report (.command .threshLowHigh f)] } ∧
    exec (.cmdThreshHighLow f) s = .next { s with results := s.results ++ [.report (.command .threshHighLow f)] } ∧
    exec (.cmdThreshHighHigh f) s = .next { s with results := s.results ++ [.report (.command .threshHighHigh f)] } ∧
    exec (.cmdInterrupt f) s = .next { s with results := s.results ++ [.report (.command .interrupt f)] } ∧
    exec (.cmdCrc f) s = .next { s with results := s.results ++ [.report (.command .crc f)] } ∧
    exec (.cmdId f) s = .next { s with results := s.results ++ [.report (.command .id f)] } ∧
    exec (.cmdData0Low f) s = .next { s with results := s.results ++ [.report (.command .data0Low f)] } ∧
    exec (.cmdData0High f) s = .next { s with results := s.results ++ [.report (.command .data0High f)] } ∧
    exec (.cmdData1Low f) s = .next { s with results := s.results ++ [.report (.command .data1Low f)] } ∧
    exec (.cmdData1High f) s = .next { s with results := s.results ++ [.report (.command .data1High f)] }

/-- 30_encoding.md section 2: the reserved rows and the row without command-valid are reported by name. That a decoder
reports them is the spec's own decision D19, that the report completes the step the model's reading (DEDUCED, log 11). -/
def Obligations.ReservedRowsReportNoRegister : Prop :=
  ∀ (f : CmdFlags) (low : BitVec 7) (s : State),
    exec (.cmdReserved7 f) s = .next { s with results := s.results ++ [.report (.reservedAddress 0x7 f)] } ∧
    exec (.cmdReserved9 f) s = .next { s with results := s.results ++ [.report (.reservedAddress 0x9 f)] } ∧
    exec (.cmdReservedB f) s = .next { s with results := s.results ++ [.report (.reservedAddress 0xB f)] } ∧
    exec (.notCmd low) s = .next { s with results := s.results ++ [.report .notCommand] }

/-- 30_encoding.md section 4: the derived decoder on every byte, and its two laws. That a byte it names no register for is
reported in a completed step is the model's reading (DEDUCED, log 11) of the spec's own decision D19. -/
def Obligations.DecodeCmdReportsEveryByte : Prop :=
  (∀ (c : Byte) (s : State), c.getLsbD 7 = false →
    exec (decodeCmdByte c) s = .next { s with results := s.results ++ [.report .notCommand] }) ∧
  (∀ (c : Byte) (s : State), c.getLsbD 7 = true →
    (c.extractLsb' 0 4 = 0x7 ∨ c.extractLsb' 0 4 = 0x9 ∨ c.extractLsb' 0 4 = 0xB) →
    exec (decodeCmdByte c) s = .next { s with results := s.results ++
      [.report (.reservedAddress (c.extractLsb' 0 4) ⟨c.getLsbD 6, c.getLsbD 5, c.getLsbD 4⟩)] }) ∧
  (∀ (c : Byte) (s : State) (r : Reg), c.getLsbD 7 = true → addrOf r = (c.extractLsb' 0 4).setWidth 8 →
    exec (decodeCmdByte c) s = .next { s with results := s.results ++
      [.report (.command r ⟨c.getLsbD 6, c.getLsbD 5, c.getLsbD 4⟩)] }) ∧
  (∀ (r : Reg) (f : CmdFlags) (s : State),
    exec (decodeCmdByte (commandByte r f)) s = .next { s with results := s.results ++ [.report (.command r f)] }) ∧
  (∀ (x : Byte) (r : Reg) (f : CmdFlags),
    (∀ s, exec (decodeCmdByte x) s = .next { s with results := s.results ++ [.report (.command r f)] }) →
    ∀ s, exec (.buildCmd r f) s = .next { s with results := s.results ++ [.cmd x] })

/-- 30_encoding.md section 2: the 24 reserved-address bytes are reported as such, and the encoder never produces one. That a
decoder reports them is the spec's own decision D19, that the report completes the step the model's reading (DEDUCED, log 11). -/
def Obligations.ReservedAddressBytes : Prop :=
  ∀ c : Byte, c ∈ ([0x87, 0x89, 0x8B, 0x97, 0x99, 0x9B, 0xA7, 0xA9, 0xAB, 0xB7, 0xB9, 0xBB,
      0xC7, 0xC9, 0xCB, 0xD7, 0xD9, 0xDB, 0xE7, 0xE9, 0xEB, 0xF7, 0xF9, 0xFB] : List Byte) →
    (∃ a f, (a = 0x7 ∨ a = 0x9 ∨ a = 0xB) ∧ a = c.extractLsb' 0 4 ∧
      ∀ s, exec (decodeCmdByte c) s = .next { s with results := s.results ++ [.report (.reservedAddress a f)] }) ∧
    ∀ r f s, exec (.buildCmd r f) s ≠ .next { s with results := s.results ++ [.cmd c] }

/-- 30_encoding.md section 2: a byte with bit 7 clear is reported as not a command, and the encoder never produces one. That a
decoder reports it is the spec's own decision D19, that the report completes the step the model's reading (DEDUCED, log 11). -/
def Obligations.BytesWithoutCommandValid : Prop :=
  ∀ c : Byte, c.toNat < 0x80 →
    (∀ s, exec (decodeCmdByte c) s = .next { s with results := s.results ++ [.report .notCommand] }) ∧
    ∀ r f s, exec (.buildCmd r f) s ≠ .next { s with results := s.results ++ [.cmd c] }

/-- 30_encoding.md sections 2 and 7: the seventeen match and mask rows partition the bytes, the decoder names the one row each
byte belongs to, and the classes have 104, 24 and 128 members. -/
def Obligations.CommandRowsPartitionTheBytes : Prop :=
  (∀ c : Byte, (commandRows.filter fun row => c &&& row.mask = row.pattern).map CmdRow.mnemonic =
    [mnemonicOf (decodeCmdByte c)]) ∧
  ((List.range 256).filter fun n => (mnemonicOf (decodeCmdByte (BitVec.ofNat 8 n))) = "NOTCMD").length = 128 ∧
  ((List.range 256).filter fun n => ["CMD.RESERVED_7", "CMD.RESERVED_9", "CMD.RESERVED_B"].contains
    (mnemonicOf (decodeCmdByte (BitVec.ofNat 8 n)))).length = 24

/-! ## Purity and order -/

/-- 00_scope.md section 1, 60_exceptions.md section 1: for every instruction the result depends on its operands alone, nothing
but the list of results changes, and no state makes it fail. The spec says so of the five operations; that the seventeen
command-byte rows complete in the same way is the model's reading (DEDUCED, log 11). -/
def Obligations.CodecOperationsArePureAndTotal : Prop :=
  ∀ i : Instr, ∃ r : Result, ∀ s : State, exec i s = .next { s with results := s.results ++ [r] }

/-- 10_state.md section 1, 20_memory.md section 7: a list of instructions is evaluated in list order, and each gives the result
its own operands determine, whatever comes before it. That a command-byte row completes with a report is the model's reading
(DEDUCED, log 11), that a program is the list of presented inputs log 3. -/
def Obligations.ProgramGivesEachOperationsOwnResult : Prop :=
  ∃ resultOf : Instr → Result,
    (∀ i s, exec i s = .next { s with results := s.results ++ [resultOf i] }) ∧
    ∀ (program : List Instr) (rest : List Input) (s : State),
      core.run program.length { s with inputs := (program.map fun i => .word (encode i).1 (encode i).2) ++ rest } =
        .next { s with inputs := rest, results := s.results ++ program.map resultOf }

/-! ## Decoding, ports, steps -/

/-- Every instruction is what the decoder reads from its own words (all 22 rows of the table). -/
def Obligations.DecodeOfEncodedWord : Prop :=
  ∀ i : Instr, decode (encode i).1 (encode i).2 = .ok i

/-- A word that decodes is exactly the encoding of what it decodes to: no bit is dropped and no two words of a function mean
the same. -/
def Obligations.EncodeOfDecodedWord : Prop :=
  ∀ (fn : CodecFn) (bytes : List Byte) (i : Instr), decode fn bytes = .ok i → encode i = (fn, bytes)

/-- Words written out from the table's patterns decode to the row they stand for. -/
def Obligations.TableWordsDecodeToTheirRows : Prop :=
  decode .cmdByte [0b10101100#8] = .ok (.cmdData0Low ⟨false, true, false⟩) ∧
  decode .cmdByte [0b11001010#8] = .ok (.cmdId ⟨true, false, false⟩) ∧
  decode .cmdByte [0b10011001#8] = .ok (.cmdReserved9 ⟨false, false, true⟩) ∧
  decode .cmdByte [0b00101100#8] = .ok (.notCmd 0b0101100#7) ∧
  decode .addrOf [0b00001000#8] = .ok (.addrOf .crc) ∧
  decode .buildCmd [0b11000110#8] = .ok (.buildCmd .interrupt ⟨true, false, false⟩) ∧
  decode .decodeWord [0x34, 0x12] = .ok (.decodeWord 0x34 0x12) ∧
  decode .encodeWord [0x34, 0x12] = .ok (.encodeWord 0x1234) ∧
  decode .encTiming [0b00010010#8] = .ok (.encTiming .ms402 .high)

/-- 30_encoding.md section 5, 60_exceptions.md section 5: a port pattern outside the operand domains is refused by name (the
spec's decision D4); every pattern inside them runs the operation whose port values it is, `reg_sel` read under the default
REG_ENC (the spec's decision D3; DESIGN CHOICE, log 8). -/
def Obligations.PortPatternsRunOrAreRefused : Prop :=
  (∀ s sel rest, s.inputs = .ports (.addrOf sel) :: rest → 13 ≤ sel.toNat →
    step s = .refused (.rejected .regSelNamesNoRegister)) ∧
  (∀ s sel word clear block rest, s.inputs = .ports (.buildCmd sel word clear block) :: rest → 13 ≤ sel.toNat →
    step s = .refused (.rejected .regSelNamesNoRegister)) ∧
  (∀ s gain rest, s.inputs = .ports (.encTiming 3 gain) :: rest → step s = .refused (.rejected .integNamesNoSetting)) ∧
  (∀ s p rest, s.inputs = .ports p :: rest → p.wellFormed = true →
    ∃ i, encodePorts i = some p ∧ step s = exec i { s with inputs := rest })

/-- The default REG_ENC, the spec's decision D3 (log 8): `reg_sel` 0 to 12 selects the addresses 0 to 6, 8, 0xA, 0xC to 0xF. -/
def Obligations.RegSelFollowsListingOrder : Prop :=
  ∀ (s : State) (n : Nat) (a : Byte) (rest : List Input), s.inputs = .ports (.addrOf (BitVec.ofNat 4 n)) :: rest → n < 13 →
    ([0x0, 0x1, 0x2, 0x3, 0x4, 0x5, 0x6, 0x8, 0xA, 0xC, 0xD, 0xE, 0xF] : List Byte)[n]? = some a →
    step s = .next { s with inputs := rest, results := s.results ++ [.addr a] }

/-- A step runs what the next presented word or port pattern decodes to, on the state with that input taken away, and refuses
what decodes to nothing. -/
def Obligations.StepRunsTheDecodedInstruction : Prop :=
  (∀ s fn bytes i rest, s.inputs = .word fn bytes :: rest → decode fn bytes = .ok i →
    step s = exec i { s with inputs := rest }) ∧
  (∀ s p i rest, s.inputs = .ports p :: rest → decodePorts p = .ok i → step s = exec i { s with inputs := rest }) ∧
  (∀ s fn bytes e rest, s.inputs = .word fn bytes :: rest → decode fn bytes = .error e → step s = .refused (.rejected e)) ∧
  (∀ s op rest, s.inputs = .env op :: rest → step s = execEnv op { s with inputs := rest })

/-- A table word placed for the next step is the instruction the next step runs, on the state before. -/
def Obligations.PlacedTableWordRunsNext : Prop :=
  ∀ (s : State) (nbits w : Nat) (i : Instr), decodeTableWord nbits w = some i → step (s.withFetchWord nbits w) = exec i s

/-- Where nothing is presented, nothing is evaluated and nothing changes: the model's reading of R12 (log 3). -/
def Obligations.NothingPresentedNothingChanges : Prop :=
  ∀ s : State, s.inputs = [] → step s = .next s

/-- A step gives a next state exactly when the next input lies in the domains the spec gives; there is no other way to stop. A
word lies in its domain when `decode` reads it (`EncodeOfDecodedWord` and `DecodeOfEncodedWord` say which words those are). The
step with nothing presented is the model's reading (DEDUCED, log 3); the addresses are log 8, the handles log 9. -/
def Obligations.StepCompletesExactlyOnAcceptedInputs : Prop :=
  ∀ s : State, (∃ t, step s = .next t) ↔ Accepted s

/-! ## The environment -/

/-- What reset leaves: no handle, no transaction, no result, and CONTROL 0x00 in every peripheral (10_state.md section 7). -/
def Obligations.ResetLeavesNoHandleAndControlZero : Prop :=
  State.reset.handles = [] ∧ State.reset.busTrace = [] ∧ State.reset.results = [] ∧ State.reset.inputs = [] ∧
  ∀ a, (periphAt State.reset.bank a).control = 0x00

/-- 44_host_sequences.md section 2: construction for both values of CONSTRUCT_POWERS_ON, at the default and at each defined
address. Its refusal of any other address is the spec's decision D18 (DESIGN CHOICE, log 8); what the device's registers hold
after the power-on write is log 7. -/
def Obligations.ConstructForBothVariants : Prop :=
  (∀ s address, execEnv (.construct address) s = execConstruct Config.constructPowersOn address s) ∧
  (∀ on s, execConstruct on none s = execConstruct on (some 0x39) s) ∧
  (∀ s a, execConstruct false (some (busAddrBits a)) s = .next { s with
    handles := s.handles ++ [some a], results := s.results ++ [.constructed s.handles.length] }) ∧
  (∀ s a bs, busReplyOf s = .ok bs → ∃ t, execConstruct true (some (busAddrBits a)) s = .next t ∧
    t.handles = s.handles ++ [some a] ∧ t.results = s.results ++ [.constructed s.handles.length] ∧
    t.busTrace = s.busTrace ++ [.write a [0x80, 0x03]] ∧ (periphAt t.bank a).control = 0x03) ∧
  (∀ s a e, busReplyOf s = .err e → ∃ t, execConstruct true (some (busAddrBits a)) s = .next t ∧
    t.handles = s.handles ∧ t.results = s.results ++ [.constructFailed e] ∧
    t.busTrace = s.busTrace ++ [.write a [0x80, 0x03]] ∧ periphAt t.bank a = periphUnknown s.draws) ∧
  (∀ on s v, v ≠ 0x29 → v ≠ 0x39 → v ≠ 0x49 → execConstruct on (some v) s = .refused (.notABusAddress v))

/-- `powerOn()` (44_host_sequences.md section 2): one write of 0x80, 0x03 to the handle's address; on success CONTROL holds
0x03 (that the register holds the byte written is DEDUCED, log 7); on failure the caller gets the bus error. -/
def Obligations.PowerOnWritesControlThree : Prop :=
  ∀ (s : State) (h : Nat) (a : BusAddr), s.handles[h]? = some (some a) → ∃ t, execEnv (.powerOn h) s = .next t ∧
    t.busTrace = s.busTrace ++ [.write a [0x80, 0x03]] ∧ t.handles = s.handles ∧
    (∀ bs, busReplyOf s = .ok bs → t.results = s.results ++ [.ok] ∧ (periphAt t.bank a).control = 0x03) ∧
    (∀ e, busReplyOf s = .err e → t.results = s.results ++ [.busError e])

/-- `powerOff()` (44_host_sequences.md section 2): one write of 0x80, 0x00; on success the sensor readings are zero
(10_state.md section 3) and CONTROL is 0x00 (that the register holds the byte written is DEDUCED, log 7). -/
def Obligations.PowerOffWritesControlZero : Prop :=
  ∀ (s : State) (h : Nat) (a : BusAddr), s.handles[h]? = some (some a) → ∃ t, execEnv (.powerOff h) s = .next t ∧
    t.busTrace = s.busTrace ++ [.write a [0x80, 0x00]] ∧ t.handles = s.handles ∧
    (∀ bs, busReplyOf s = .ok bs → t.results = s.results ++ [.ok] ∧ (periphAt t.bank a).control = 0x00 ∧
      (periphAt t.bank a).data0Low = 0 ∧ (periphAt t.bank a).data0High = 0 ∧
      (periphAt t.bank a).data1Low = 0 ∧ (periphAt t.bank a).data1High = 0) ∧
    (∀ e, busReplyOf s = .err e → t.results = s.results ++ [.busError e])

/-- 44_host_sequences.md section 2: one write-then-read of channel 0, exactly two bytes, low byte first; on a bus error no count.
On success the pair read holds the bytes that came back, they make the count, and CONTROL and TIMING are as before: no read has
a side effect (20_memory.md section 4; DEDUCED, log 7). Of an outcome that lists more than two bytes the first two come back, one
that lists fewer is completed by free bytes (DESIGN CHOICE, log 4). -/
def Obligations.ReadVisibleAndIrRawReturnsTheCount : Prop :=
  ∀ (s : State) (h : Nat) (a : BusAddr), s.handles[h]? = some (some a) →
    ∃ t, execEnv (.readVisibleAndIrRaw h) s = .next t ∧ t.busTrace = s.busTrace ++ [.writeRead a [0xAC] 2] ∧ t.handles = s.handles ∧
    (∀ lo hi more, busReplyOf s = .ok (lo :: hi :: more) →
      (periphAt t.bank a).data0Low = lo ∧ (periphAt t.bank a).data0High = hi ∧
      ∃ w : Word, t.results = s.results ++ [.count w] ∧ w.toNat = 256 * hi.toNat + lo.toNat) ∧
    (∀ bs, busReplyOf s = .ok bs →
      (periphAt t.bank a).control = (periphAt s.bank a).control ∧ (periphAt t.bank a).timing = (periphAt s.bank a).timing ∧
      ∃ w : Word, t.results = s.results ++ [.count w] ∧
        w.toNat = 256 * (periphAt t.bank a).data0High.toNat + (periphAt t.bank a).data0Low.toNat) ∧
    (∀ e, busReplyOf s = .err e → t.results = s.results ++ [.busError e])

/-- 44_host_sequences.md section 2: the same for channel 1, command byte 0xAE (DESIGN CHOICE, log 4; DEDUCED, log 7). -/
def Obligations.ReadIrRawReturnsTheCount : Prop :=
  ∀ (s : State) (h : Nat) (a : BusAddr), s.handles[h]? = some (some a) →
    ∃ t, execEnv (.readIrRaw h) s = .next t ∧ t.busTrace = s.busTrace ++ [.writeRead a [0xAE] 2] ∧ t.handles = s.handles ∧
    (∀ lo hi more, busReplyOf s = .ok (lo :: hi :: more) →
      (periphAt t.bank a).data1Low = lo ∧ (periphAt t.bank a).data1High = hi ∧
      ∃ w : Word, t.results = s.results ++ [.count w] ∧ w.toNat = 256 * hi.toNat + lo.toNat) ∧
    (∀ bs, busReplyOf s = .ok bs →
      (periphAt t.bank a).control = (periphAt s.bank a).control ∧ (periphAt t.bank a).timing = (periphAt s.bank a).timing ∧
      ∃ w : Word, t.results = s.results ++ [.count w] ∧
        w.toNat = 256 * (periphAt t.bank a).data1High.toNat + (periphAt t.bank a).data1Low.toNat) ∧
    (∀ e, busReplyOf s = .err e → t.results = s.results ++ [.busError e])

/-- `configureTimingAndGain` (44_host_sequences.md section 2): one write of 0x81 and the timing byte; on success TIMING holds
exactly that byte, a full overwrite (10_state.md section 3). That CONTROL is as before the model adds (DEDUCED, log 7). -/
def Obligations.ConfigureOverwritesTiming : Prop :=
  ∀ (s : State) (h : Nat) (a : BusAddr) (i : Integ) (g : Gain), s.handles[h]? = some (some a) →
    ∃ t, ∃ b : Byte, execEnv (.configureTimingAndGain h i g) s = .next t ∧
    b.toNat = (integCode i).toNat + 16 * (gainCode g).toNat ∧
    t.busTrace = s.busTrace ++ [.write a [0x81, b]] ∧ t.handles = s.handles ∧
    (∀ bs, busReplyOf s = .ok bs → t.results = s.results ++ [.ok] ∧ (periphAt t.bank a).timing = b ∧
      (periphAt t.bank a).control = (periphAt s.bank a).control) ∧
    (∀ e, busReplyOf s = .err e → t.results = s.results ++ [.busError e])

/-- R102: a bus failure reaches the caller verbatim, after exactly one transaction, with no change of the handles, and the same
operation may be called again; so too the power-on write of a construction. -/
def Obligations.BusErrorIsSurfacedVerbatim : Prop :=
  (∀ (s : State) (op : EnvOp) (h : Nat) (a : BusAddr) (e : BusError), transacts op = true → handleOf op = some h →
    s.handles[h]? = some (some a) → busReplyOf s = .err e →
    ∃ t c, execEnv op s = .next t ∧ t.results = s.results ++ [.busError e] ∧ t.handles = s.handles ∧
      t.busTrace = s.busTrace ++ [c] ∧ ∃ t', execEnv op t = .next t') ∧
  (∀ (s : State) (a : BusAddr) (e : BusError), busReplyOf s = .err e →
    ∃ t c, execConstruct true (some (busAddrBits a)) s = .next t ∧ t.results = s.results ++ [.constructFailed e] ∧
      t.handles = s.handles ∧ t.busTrace = s.busTrace ++ [c])

/-- R103: an operation that touches the bus issues exactly one transaction, to its handle's address. -/
def Obligations.OneTransactionPerOperation : Prop :=
  ∀ (s : State) (op : EnvOp) (h : Nat) (a : BusAddr), transacts op = true → handleOf op = some h →
    s.handles[h]? = some (some a) →
    ∃ t c, execEnv op s = .next t ∧ t.busTrace = s.busTrace ++ [c] ∧ busCallAddr c = a

/-- What an operation of the environment leaves alone: the peripherals at other addresses, the handles (but for the one it
makes or drops), the earlier results and transactions (44_host_sequences.md section 3; the model's bank, log 9). -/
def Obligations.EnvironmentFrame : Prop :=
  ∀ (s t : State) (op : EnvOp), execEnv op s = .next t →
    (∃ r, t.results = s.results ++ [r]) ∧ s.busTrace <+: t.busTrace ∧ t.busTrace.length ≤ s.busTrace.length + 1 ∧
    t.inputs = s.inputs ∧
    (∀ h x, s.handles[h]? = some x → op ≠ .dropHandle h → t.handles[h]? = some x) ∧
    (∀ h a, handleOf op = some h → s.handles[h]? = some (some a) →
      ∀ a', a' ≠ a → periphAt t.bank a' = periphAt s.bank a') ∧
    (∀ address a, op = .construct address → ConstructsAt address a →
      ∀ a', a' ≠ a → periphAt t.bank a' = periphAt s.bank a') ∧
    (∀ a, op = .devicePowerDown a ∨ op = .devicePowerUp a → ∀ a', a' ≠ a → periphAt t.bank a' = periphAt s.bank a')

/-- Every transaction ever issued is one of the thirty the spec lists (95_test_vectors.md section 3.6): a step keeps that. -/
def Obligations.EveryStepKeepsTraceLegal : Prop :=
  ∀ s t : State, TraceLegal s → step s = .next t → TraceLegal t

/-- The trace is legal at reset. -/
def Obligations.TraceLegalAtReset : Prop := TraceLegal State.reset

/-- A step issues at most one transaction, and none whose command byte sets the clear or the block flag, or lacks command-valid, and the word flag
goes with reads alone (41_command_byte.md section 3, 20_memory.md section 4). -/
def Obligations.NewTransactionsHaveValidCommandBytes : Prop :=
  ∀ (s t : State), step s = .next t → ∃ new, t.busTrace = s.busTrace ++ new ∧ new.length ≤ 1 ∧ ∀ call ∈ new,
    ∃ c, (busCallBytes call).head? = some c ∧ c.getLsbD 7 = true ∧ c.getLsbD 6 = false ∧ c.getLsbD 4 = false ∧
      ((∃ a d, call = .write a [c, d] ∧ c.getLsbD 5 = false) ∨ ∃ a, call = .writeRead a [c] 2 ∧ c.getLsbD 5 = true)

/-- A handle's bus address is fixed at construction and never changes; only dropping the handle ends it (10_state.md
section 6; the list of handles and their dropped places are the model's, log 9). -/
def Obligations.HandleAddressNeverChanges : Prop :=
  ∀ (s t : State) (h : Nat) (a : BusAddr), step s = .next t → s.handles[h]? = some (some a) →
    t.handles[h]? = some (some a) ∨
      (t.handles[h]? = some none ∧ s.inputs.head? = some (.env (.dropHandle h)))

/-- A failed transaction leaves the device's registers unknown: each holds a free value (60_exceptions.md section 1, log 7),
and no other device is touched (one peripheral for each address: DESIGN CHOICE, log 9). So it is for the five operations on a handle, and for the power-on write of a construction. -/
def Obligations.FailedTransactionLeavesRegistersFree : Prop :=
  (∀ (s : State) (op : EnvOp) (h : Nat) (a : BusAddr) (e : BusError), transacts op = true → handleOf op = some h →
    s.handles[h]? = some (some a) → busReplyOf s = .err e →
    ∃ t, execEnv op s = .next t ∧ periphAt t.bank a = periphUnknown s.draws ∧
      ∀ a', a' ≠ a → periphAt t.bank a' = periphAt s.bank a') ∧
  (∀ (s : State) (address : Option (BitVec 7)) (a : BusAddr) (e : BusError), ConstructsAt address a → busReplyOf s = .err e →
    ∃ t, execConstruct true address s = .next t ∧ periphAt t.bank a = periphUnknown s.draws ∧
      ∀ a', a' ≠ a → periphAt t.bank a' = periphAt s.bank a')

/-- R128: dropping a handle sends nothing and leaves every device as it was. -/
def Obligations.DroppedHandleSendsNothing : Prop :=
  ∀ (s : State) (h : Nat) (a : BusAddr), s.handles[h]? = some (some a) → ∃ t, execEnv (.dropHandle h) s = .next t ∧
    t.busTrace = s.busTrace ∧ t.bank = s.bank ∧ t.busReplies = s.busReplies ∧ t.handles[h]? = some none

/-- A device that loses its power is powered off, and no transaction is made (10_state.md section 7). That devices at other
addresses keep their registers is the model's bank, one peripheral for each address (DESIGN CHOICE, log 9). -/
def Obligations.PowerDownClearsControl : Prop :=
  ∀ (s : State) (a : BusAddr), ∃ t, execEnv (.devicePowerDown a) s = .next t ∧ (periphAt t.bank a).control = 0x00 ∧
    t.busTrace = s.busTrace ∧ t.handles = s.handles ∧ ∀ a', a' ≠ a → periphAt t.bank a' = periphAt s.bank a'

/-- A device that gets its power back holds free values in all its registers, CONTROL too, and no transaction is made
(10_state.md section 7; the event and its free values are the model's form of D22: DESIGN CHOICE, log 7; one peripheral for each
address: DESIGN CHOICE, log 9). -/
def Obligations.PowerUpLeavesRegistersFree : Prop :=
  ∀ (s : State) (a : BusAddr), ∃ t, execEnv (.devicePowerUp a) s = .next t ∧ periphAt t.bank a = periphUnknown s.draws ∧
    t.busTrace = s.busTrace ∧ t.handles = s.handles ∧ ∀ a', a' ≠ a → periphAt t.bank a' = periphAt s.bank a'

/-- Each transaction takes an outcome of its own, in the order the outside world fixed them, and what makes no transaction takes
none (44_host_sequences.md section 1, the draws of D20; their form is the model's: DESIGN CHOICE, log 4). -/
def Obligations.EveryTransactionUsesUpItsOutcome : Prop :=
  (∀ (s : State) (op : EnvOp) (h : Nat) (a : BusAddr), transacts op = true → handleOf op = some h →
    s.handles[h]? = some (some a) →
    ∃ t, execEnv op s = .next t ∧ t.busReplies = s.busReplies.tail ∧ t.draws = s.draws + 1 ∧
      ∀ r1 r2 rest, s.busReplies = r1 :: r2 :: rest → busReplyOf s = r1 ∧ busReplyOf t = r2) ∧
  (∀ (s : State) (address : Option (BitVec 7)) (a : BusAddr), ConstructsAt address a →
    (∃ t, execConstruct true address s = .next t ∧ t.busReplies = s.busReplies.tail ∧ t.draws = s.draws + 1) ∧
    ∃ t, execConstruct false address s = .next t ∧ t.busReplies = s.busReplies ∧ t.draws = s.draws) ∧
  (∀ (s t : State) (op : EnvOp), execEnv op s = .next t → transacts op = false → (∀ address, op ≠ .construct address) →
    t.busReplies = s.busReplies) ∧
  (∀ (s t : State) (i : Instr), exec i s = .next t → t.busReplies = s.busReplies ∧ t.draws = s.draws)
end

