-- ==== Sys2Proof/Laws/Operands.lean ====
section
/-! SUPPORT. What the code tables and the codec's formulas satisfy. -/

namespace Sys2Proof.Machine

/-- `reg_of` undoes `addr_of` (R71 (f)). -/
@[simp] theorem regOf_addrOf (r : Reg) : regOf ((addrOf r).extractLsb' 0 4) = some r := by
  cases r <;> rfl

/-- A 4-bit address names a register only if it is that register's address (R71 (f)). -/
theorem addrOf_of_regOf {a : BitVec 4} {r : Reg} (h : regOf a = some r) : addrOf r = a.setWidth 8 := by
  revert r h
  have key : ∀ a : BitVec 4, (regOf a).map addrOf = (regOf a).map fun _ => a.setWidth 8 := by decide
  intro r h
  have := key a
  simpa [h] using this

theorem regOf_eq_none_iff (a : BitVec 4) : regOf a = none ↔ a = 0x7 ∨ a = 0x9 ∨ a = 0xB := by
  revert a; decide

@[simp] theorem regOfSel_regEnc (r : Reg) : regOfSel (regEnc r) = some r := by
  cases r <;> rfl

@[simp] theorem integOf_integCode (i : Integ) : integOf (integCode i) = some i := by
  cases i <;> rfl

@[simp] theorem gainOf_gainCode (g : Gain) : gainOf (gainCode g) = g := by
  cases g <;> rfl

@[simp] theorem busAddrOf_busAddrBits (a : BusAddr) : busAddrOf (busAddrBits a) = some a := by
  cases a <;> rfl

/-- The joined word in numbers (R81: `256 * hi + lo`). -/
theorem joinBytes_toNat (lo hi : Byte) : (joinBytes lo hi).toNat = 256 * hi.toNat + lo.toNat := by
  have hlo : lo.toNat < 2 ^ 8 := lo.isLt
  have hhi := hi.isLt
  have h := Nat.two_pow_add_eq_or_of_lt hlo hi.toNat
  simp only [joinBytes, BitVec.toNat_or, BitVec.toNat_shiftLeft, BitVec.toNat_setWidth, Nat.shiftLeft_eq]
  rw [Nat.mod_eq_of_lt (a := hi.toNat) (by omega), Nat.mod_eq_of_lt (a := lo.toNat) (by omega),
    Nat.mod_eq_of_lt (by omega), Nat.mul_comm, ← h]

theorem lowByte_toNat (w : Word) : (lowByte w).toNat = w.toNat % 256 := by
  have : w.toNat &&& 255 = w.toNat % 256 := Nat.and_two_pow_sub_one_eq_mod w.toNat 8
  simp only [lowByte, BitVec.toNat_setWidth, BitVec.toNat_and]
  rw [show (0x00FF : Word).toNat = 255 from rfl, this]
  omega

theorem highByte_toNat (w : Word) : (highByte w).toNat = w.toNat / 256 := by
  have := w.isLt
  simp [highByte, Nat.shiftRight_eq_div_pow]
  omega

/-- The two bytes of a channel read. -/
theorem readBuffer_two (bytes : List Byte) (s : State) : readBuffer bytes 2 s =
    [bytes.getD 0 (Config.readByte s.draws 0), bytes.getD 1 (Config.readByte s.draws 1)] := rfl

theorem readBuffer_length (bytes : List Byte) (n : Nat) (s : State) : (readBuffer bytes n s).length = n := by
  simp [readBuffer]

/-- Byte `i` of a read is what the outcome lists there, if it lists one. -/
theorem readBuffer_getD {bytes : List Byte} {n i : Nat} (s : State) (hi : i < n) (h : i < bytes.length) (d : Byte) :
    (readBuffer bytes n s).getD i d = bytes[i] := by
  simp [readBuffer, List.getD, hi, h]

end Sys2Proof.Machine
end

