-- ==== Sys2Proof/Laws/State.lean ====
section
/-! SUPPORT. What each update of the state does to each field. -/

namespace Sys2Proof.Machine

section Deliver
variable (r : Result) (s : State)
@[simp] theorem deliver_inputs : (deliver r s).inputs = s.inputs := rfl
@[simp] theorem deliver_results : (deliver r s).results = s.results ++ [r] := rfl
@[simp] theorem deliver_handles : (deliver r s).handles = s.handles := rfl
@[simp] theorem deliver_bank : (deliver r s).bank = s.bank := rfl
@[simp] theorem deliver_busTrace : (deliver r s).busTrace = s.busTrace := rfl
@[simp] theorem deliver_busReplies : (deliver r s).busReplies = s.busReplies := rfl
@[simp] theorem deliver_draws : (deliver r s).draws = s.draws := rfl
end Deliver

section NoteBusCall
variable (c : BusCall) (s : State)
@[simp] theorem noteBusCall_inputs : (noteBusCall c s).inputs = s.inputs := rfl
@[simp] theorem noteBusCall_results : (noteBusCall c s).results = s.results := rfl
@[simp] theorem noteBusCall_handles : (noteBusCall c s).handles = s.handles := rfl
@[simp] theorem noteBusCall_bank : (noteBusCall c s).bank = s.bank := rfl
@[simp] theorem noteBusCall_busTrace : (noteBusCall c s).busTrace = s.busTrace ++ [c] := rfl
@[simp] theorem noteBusCall_busReplies : (noteBusCall c s).busReplies = s.busReplies.tail := rfl
@[simp] theorem noteBusCall_draws : (noteBusCall c s).draws = s.draws + 1 := rfl
end NoteBusCall

section UpdatePeriph
variable (a : BusAddr) (p : Peripheral) (s : State)
@[simp] theorem updatePeriph_inputs : (updatePeriph a p s).inputs = s.inputs := rfl
@[simp] theorem updatePeriph_results : (updatePeriph a p s).results = s.results := rfl
@[simp] theorem updatePeriph_handles : (updatePeriph a p s).handles = s.handles := rfl
@[simp] theorem updatePeriph_bank : (updatePeriph a p s).bank = setPeriphAt s.bank a p := rfl
@[simp] theorem updatePeriph_busTrace : (updatePeriph a p s).busTrace = s.busTrace := rfl
@[simp] theorem updatePeriph_busReplies : (updatePeriph a p s).busReplies = s.busReplies := rfl
@[simp] theorem updatePeriph_draws : (updatePeriph a p s).draws = s.draws := rfl
end UpdatePeriph

section Bank
variable (b : Bank) (p : Peripheral)
@[simp] theorem periphAt_setPeriphAt_same (a : BusAddr) : periphAt (setPeriphAt b a p) a = p := by
  cases a <;> rfl

theorem periphAt_setPeriphAt_other {a a' : BusAddr} (h : a' ≠ a) :
    periphAt (setPeriphAt b a p) a' = periphAt b a' := by
  cases a <;> cases a' <;> first | rfl | exact absurd rfl h
end Bank

end Sys2Proof.Machine
end

