-- ==== Sys2Proof/Laws/Ops.lean ====
section
/-! SUPPORT. One lemma for each shared operation, which says once everything it can do. -/

namespace Sys2Proof.Machine

/-- What every transaction leaves alone and takes: its own outcome is used up, other devices keep their registers. -/
structure SameAroundBus (a : BusAddr) (s t : State) : Prop where
  inputs : t.inputs = s.inputs
  busReplies : t.busReplies = s.busReplies.tail
  draws : t.draws = s.draws + 1
  otherPeriphs : ∀ a', a' ≠ a → periphAt t.bank a' = periphAt s.bank a'

/-- Everything but the results, the trace and the peripheral at `a` that a transaction on a handle leaves alone. -/
structure SameButBus (a : BusAddr) (s t : State) : Prop extends SameAroundBus a s t where
  handles : t.handles = s.handles

theorem busWrite_spec (a : BusAddr) (bytes : List Byte) (s : State) :
    SameButBus a s (busWrite a bytes s) ∧ (busWrite a bytes s).results = s.results ∧
      (busWrite a bytes s).busTrace = s.busTrace ++ [.write a bytes] := by
  unfold busWrite
  split <;> exact ⟨⟨⟨rfl, rfl, rfl, fun _ h => periphAt_setPeriphAt_other _ _ h⟩, rfl⟩, rfl, rfl⟩

theorem busWrite_periph_ok {a : BusAddr} {bytes : List Byte} {s : State} {bs : List Byte}
    (h : busReplyOf s = .ok bs) :
    periphAt (busWrite a bytes s).bank a = periphAfterWrite s.draws bytes (periphAt s.bank a) := by
  simp [busWrite, h]

theorem busWrite_periph_err {a : BusAddr} {bytes : List Byte} {s : State} {e : BusError}
    (h : busReplyOf s = .err e) : periphAt (busWrite a bytes s).bank a = periphUnknown s.draws := by
  simp [busWrite, h]

theorem busWriteRead_spec (a : BusAddr) (wbytes : List Byte) (n : Nat) (s : State) :
    SameButBus a s (busWriteRead a wbytes n s) ∧ (busWriteRead a wbytes n s).results = s.results ∧
      (busWriteRead a wbytes n s).busTrace = s.busTrace ++ [.writeRead a wbytes n] := by
  unfold busWriteRead
  split <;> exact ⟨⟨⟨rfl, rfl, rfl, fun _ h => periphAt_setPeriphAt_other _ _ h⟩, rfl⟩, rfl, rfl⟩

theorem busWriteRead_periph_ok {a : BusAddr} {wbytes : List Byte} {n : Nat} {s : State} {bs : List Byte}
    (h : busReplyOf s = .ok bs) : periphAt (busWriteRead a wbytes n s).bank a =
      periphAfterRead s.draws wbytes (readBuffer bs n s) (periphAt s.bank a) := by
  simp [busWriteRead, h]

theorem busWriteRead_periph_err {a : BusAddr} {wbytes : List Byte} {n : Nat} {s : State} {e : BusError}
    (h : busReplyOf s = .err e) : periphAt (busWriteRead a wbytes n s).bank a = periphUnknown s.draws := by
  simp [busWriteRead, h]

/-- What the two channel reads leave in the device: CONTROL and TIMING as before, the pair read holding what came back. -/
theorem periphAfterRead_data0 (n : Nat) (lo hi : Byte) (p : Peripheral) :
    periphAfterRead n [commandByte .data0Low wordFlag] [lo, hi] p =
      { periphUnknown n with control := p.control, timing := p.timing, data0Low := lo, data0High := hi } := rfl

theorem periphAfterRead_data1 (n : Nat) (lo hi : Byte) (p : Peripheral) :
    periphAfterRead n [commandByte .data1Low wordFlag] [lo, hi] p =
      { periphUnknown n with control := p.control, timing := p.timing, data1Low := lo, data1High := hi } := rfl

/-- A write operation: one transaction, and its outcome is the result. -/
theorem writeOperation_spec (a : BusAddr) (bytes : List Byte) (s : State) :
    SameButBus a s (writeOperation a bytes s) ∧
      (writeOperation a bytes s).busTrace = s.busTrace ++ [.write a bytes] ∧
      ((∃ bs, busReplyOf s = .ok bs ∧ (writeOperation a bytes s).results = s.results ++ [.ok]) ∨
        ∃ e, busReplyOf s = .err e ∧ (writeOperation a bytes s).results = s.results ++ [.busError e]) := by
  obtain ⟨h, hr, ht⟩ := busWrite_spec a bytes s
  unfold writeOperation surfaceBusError
  split
  · exact ⟨⟨⟨h.inputs, h.busReplies, h.draws, h.otherPeriphs⟩, h.handles⟩, ht, .inl ⟨_, by assumption, by rw [deliver_results, hr]⟩⟩
  · exact ⟨⟨⟨h.inputs, h.busReplies, h.draws, h.otherPeriphs⟩, h.handles⟩, ht, .inr ⟨_, by assumption, by rw [deliver_results, hr]⟩⟩

/-- A read operation: one transaction, and its result is the count or the error. -/
theorem readOperation_spec (a : BusAddr) (low : Reg) (s : State) :
    SameButBus a s (readOperation a low s) ∧
      (readOperation a low s).busTrace = s.busTrace ++ [.writeRead a [commandByte low wordFlag] 2] ∧
      ((∃ bs, busReplyOf s = .ok bs ∧ (readOperation a low s).results = s.results ++
          [.count (joinBytes ((readBuffer bs 2 s).getD 0 0) ((readBuffer bs 2 s).getD 1 0))]) ∨
        ∃ e, busReplyOf s = .err e ∧ (readOperation a low s).results = s.results ++ [.busError e]) := by
  obtain ⟨h, hr, ht⟩ := busWriteRead_spec a [commandByte low wordFlag] 2 s
  unfold readOperation surfaceBusError
  split
  · exact ⟨⟨⟨h.inputs, h.busReplies, h.draws, h.otherPeriphs⟩, h.handles⟩, ht, .inl ⟨_, by assumption, by rw [deliver_results, hr]⟩⟩
  · exact ⟨⟨⟨h.inputs, h.busReplies, h.draws, h.otherPeriphs⟩, h.handles⟩, ht, .inr ⟨_, by assumption, by rw [deliver_results, hr]⟩⟩

/-- Construction that powers the device on: one transaction, the handle's existence and the result by its outcome. -/
theorem constructAt_powersOn_spec (a : BusAddr) (s : State) :
    SameAroundBus a s (constructAt true a s) ∧
      (constructAt true a s).busTrace = s.busTrace ++ [.write a powerOnBytes] ∧
      ((∃ bs, busReplyOf s = .ok bs ∧ (constructAt true a s).handles = s.handles ++ [some a] ∧
          (constructAt true a s).results = s.results ++ [.constructed s.handles.length]) ∨
        ∃ e, busReplyOf s = .err e ∧ (constructAt true a s).handles = s.handles ∧
          (constructAt true a s).results = s.results ++ [.constructFailed e]) := by
  obtain ⟨h, hr, ht⟩ := busWrite_spec a powerOnBytes s
  unfold constructAt addHandle
  rw [if_pos rfl]
  split
  · exact ⟨⟨h.inputs, h.busReplies, h.draws, h.otherPeriphs⟩, ht, .inl ⟨_, by assumption, by simp [h.handles], by simp [h.handles, hr]⟩⟩
  · exact ⟨⟨h.inputs, h.busReplies, h.draws, h.otherPeriphs⟩, ht, .inr ⟨_, by assumption, by simp [h.handles], by simp [hr]⟩⟩

/-- A construction whose address argument names `a` is `constructAt` there. -/
theorem execConstruct_of_constructsAt {address : Option (BitVec 7)} {a : BusAddr} (h : ConstructsAt address a)
    (powersOn : Bool) (s : State) : execConstruct powersOn address s = .next (constructAt powersOn a s) := by
  rcases h with rfl | ⟨rfl, rfl⟩
  · cases a <;> rfl
  · rfl

/-- A call on a handle gives a next state exactly when the handle exists. -/
theorem onHandle_next {h : Nat} {k : BusAddr → State → State} {s t : State} :
    onHandle h k s = .next t ↔ ∃ a, s.handles[h]? = some (some a) ∧ t = k a s := by
  unfold onHandle
  split
  · rename_i a ha
    constructor
    · intro e
      exact ⟨a, ha, by cases e; rfl⟩
    · rintro ⟨a', ha', rfl⟩
      rw [ha] at ha'
      cases ha'
      rfl
  · rename_i hn
    constructor
    · intro e
      cases e
    · rintro ⟨a', ha', -⟩
      exact absurd ha' (hn a')

theorem onHandle_of_handle {h : Nat} {k : BusAddr → State → State} {s : State} {a : BusAddr}
    (ha : s.handles[h]? = some (some a)) : onHandle h k s = .next (k a s) :=
  onHandle_next.2 ⟨a, ha, rfl⟩

/-- What a step can do: nothing is presented and nothing changes, or the next input is run. -/
theorem step_cases {s t : State} (h : step s = .next t) :
    (s.inputs = [] ∧ t = s) ∨ ∃ x rest, s.inputs = x :: rest ∧ runInput x { s with inputs := rest } = .next t := by
  unfold step runNext at h
  split at h
  · exact .inl ⟨by assumption, by cases h; rfl⟩
  · exact .inr ⟨_, _, by assumption, h⟩

theorem step_of_inputs {s : State} {x : Input} {rest : List Input} (h : s.inputs = x :: rest) :
    step s = runInput x { s with inputs := rest } := by
  simp [step, runNext, h]

end Sys2Proof.Machine
end

