-- ==== Sys2Proof/Laws/PerInstr.lean ====
section
/-! SUPPORT. Decoding what the encoder writes, one lemma for each instruction. -/

namespace Sys2Proof.Laws.WordRoundTrip

/-- The words of an instruction, presented to its function, decode to it. -/
def Statement (i : Instr) : Prop := decode (encode i).1 (encode i).2 = .ok i

theorem cmdControl (f : CmdFlags) : Statement (.cmdControl f) := by
  rcases f with ⟨_ | _, _ | _, _ | _⟩ <;> rfl

theorem cmdTiming (f : CmdFlags) : Statement (.cmdTiming f) := by
  rcases f with ⟨_ | _, _ | _, _ | _⟩ <;> rfl

theorem cmdThreshLowLow (f : CmdFlags) : Statement (.cmdThreshLowLow f) := by
  rcases f with ⟨_ | _, _ | _, _ | _⟩ <;> rfl

theorem cmdThreshLowHigh (f : CmdFlags) : Statement (.cmdThreshLowHigh f) := by
  rcases f with ⟨_ | _, _ | _, _ | _⟩ <;> rfl

theorem cmdThreshHighLow (f : CmdFlags) : Statement (.cmdThreshHighLow f) := by
  rcases f with ⟨_ | _, _ | _, _ | _⟩ <;> rfl

theorem cmdThreshHighHigh (f : CmdFlags) : Statement (.cmdThreshHighHigh f) := by
  rcases f with ⟨_ | _, _ | _, _ | _⟩ <;> rfl

theorem cmdInterrupt (f : CmdFlags) : Statement (.cmdInterrupt f) := by
  rcases f with ⟨_ | _, _ | _, _ | _⟩ <;> rfl

theorem cmdCrc (f : CmdFlags) : Statement (.cmdCrc f) := by
  rcases f with ⟨_ | _, _ | _, _ | _⟩ <;> rfl

theorem cmdId (f : CmdFlags) : Statement (.cmdId f) := by
  rcases f with ⟨_ | _, _ | _, _ | _⟩ <;> rfl

theorem cmdData0Low (f : CmdFlags) : Statement (.cmdData0Low f) := by
  rcases f with ⟨_ | _, _ | _, _ | _⟩ <;> rfl

theorem cmdData0High (f : CmdFlags) : Statement (.cmdData0High f) := by
  rcases f with ⟨_ | _, _ | _, _ | _⟩ <;> rfl

theorem cmdData1Low (f : CmdFlags) : Statement (.cmdData1Low f) := by
  rcases f with ⟨_ | _, _ | _, _ | _⟩ <;> rfl

theorem cmdData1High (f : CmdFlags) : Statement (.cmdData1High f) := by
  rcases f with ⟨_ | _, _ | _, _ | _⟩ <;> rfl

theorem cmdReserved7 (f : CmdFlags) : Statement (.cmdReserved7 f) := by
  rcases f with ⟨_ | _, _ | _, _ | _⟩ <;> rfl

theorem cmdReserved9 (f : CmdFlags) : Statement (.cmdReserved9 f) := by
  rcases f with ⟨_ | _, _ | _, _ | _⟩ <;> rfl

theorem cmdReservedB (f : CmdFlags) : Statement (.cmdReservedB f) := by
  rcases f with ⟨_ | _, _ | _, _ | _⟩ <;> rfl

theorem notCmd (low : BitVec 7) : Statement (.notCmd low) := by
  have key : ∀ low : BitVec 7, decodeCmdByte (0#1 ++ low) = .notCmd low := by decide
  exact congrArg Except.ok (key low)

theorem addrOf (r : Reg) : Statement (.addrOf r) := by
  cases r <;> rfl

theorem buildCmd (r : Reg) (f : CmdFlags) : Statement (.buildCmd r f) := by
  rcases f with ⟨_ | _, _ | _, _ | _⟩ <;> cases r <;> rfl

theorem decodeWord (lo hi : Byte) : Statement (.decodeWord lo hi) := rfl

theorem encodeWord (w : Word) : Statement (.encodeWord w) := by
  have key : w.extractLsb' 8 8 ++ w.extractLsb' 0 8 = w := by
    ext i h
    simp only [BitVec.getElem_append, BitVec.getElem_extractLsb']
    split
    · simp [BitVec.getLsbD_eq_getElem, h]
    · rw [show 8 + (i - 8) = i by omega, BitVec.getLsbD_eq_getElem h]
  exact congrArg (fun v => Except.ok (Instr.encodeWord v)) key

theorem encTiming (i : Integ) (g : Gain) : Statement (.encTiming i g) := by
  cases i <;> cases g <;> rfl

end Sys2Proof.Laws.WordRoundTrip
end

