-- ==== Sys2Proof/Machine/Spelling.lean ====
section
/-! DEFINITION. The one-line spelling of the five operations (spec/30_encoding.md R53; 92_eei_decisions.md D15): notation only,
nothing in the machine depends on it. -/

namespace Sys2Proof.Machine

/-- A register's constant name (spec/10_state.md R13). -/
def regName (r : Reg) : String :=
  match r with
  | .control => "CONTROL"
  | .timing => "TIMING"
  | .threshLowLow => "THRESHLOWLOW"
  | .threshLowHigh => "THRESHLOWHIGH"
  | .threshHighLow => "THRESHHIGHLOW"
  | .threshHighHigh => "THRESHHIGHHIGH"
  | .interrupt => "INTERRUPT"
  | .crc => "CRC"
  | .id => "ID"
  | .data0Low => "DATA0LOW"
  | .data0High => "DATA0HIGH"
  | .data1Low => "DATA1LOW"
  | .data1High => "DATA1HIGH"

/-- A setting's name (R53). -/
def integName (i : Integ) : String :=
  match i with
  | .ms13 => "ms_13"
  | .ms101 => "ms_101"
  | .ms402 => "ms_402"

/-- A setting's name (R53). -/
def gainName (g : Gain) : String :=
  match g with
  | .low => "Low"
  | .high => "High"

/-- The flag letters, in the order W, C, B; an absent letter is false (R53). -/
def flagLetters (f : CmdFlags) : String :=
  (if f.word then ", W" else "") ++ (if f.clear then ", C" else "") ++ (if f.block then ", B" else "")

/-- A hexadecimal digit. -/
def hexDigit (n : Nat) : String :=
  (["0", "1", "2", "3", "4", "5", "6", "7", "8", "9", "A", "B", "C", "D", "E", "F"])[n]?.getD ""

/-- A byte numeral, as `0x2A` (spec/00_scope.md section 5). -/
def hexByte (b : Byte) : String :=
  "0x" ++ hexDigit (b.toNat / 16) ++ hexDigit (b.toNat % 16)

/-- A word numeral, as `0x1234`. -/
def hexWord (w : Word) : String :=
  "0x" ++ hexDigit (w.toNat / 4096) ++ hexDigit (w.toNat / 256 % 16) ++ hexDigit (w.toNat / 16 % 16) ++ hexDigit (w.toNat % 16)

/-- The spelling of an operation; the command-byte rows are not operations of the block and have none. -/
def spell (i : Instr) : Option String :=
  match i with
  | .addrOf r => some ("ADDROF " ++ regName r)
  | .buildCmd r f => some ("BUILDCMD " ++ regName r ++ flagLetters f)
  | .decodeWord lo hi => some ("DECODEWORD " ++ hexByte lo ++ ", " ++ hexByte hi)
  | .encodeWord w => some ("ENCODEWORD " ++ hexWord w)
  | .encTiming t g => some ("ENCTIMING " ++ integName t ++ ", " ++ gainName g)
  | .cmdControl _ | .cmdTiming _ | .cmdThreshLowLow _ | .cmdThreshLowHigh _ | .cmdThreshHighLow _
  | .cmdThreshHighHigh _ | .cmdInterrupt _ | .cmdCrc _ | .cmdId _ | .cmdData0Low _ | .cmdData0High _
  | .cmdData1Low _ | .cmdData1High _ | .cmdReserved7 _ | .cmdReserved9 _ | .cmdReservedB _ | .notCmd _ => none

end Sys2Proof.Machine
end

