-- ==== Sys2Proof/Tests/Slice0.lean ====
section
/-! SUPPORT. Tests. Expected values are the spec's own: the words are written out from the patterns of spec/30_encoding.md and
spec/opcode_table.json, the results from spec/95_test_vectors.md (the vector is named in each comment). The witnesses show that
the hypotheses of the statements can be met. -/

namespace Sys2Proof.Tests

open Sys2Proof.Machine

/-- One handle at the default address, the given bus outcomes and the given inputs. -/
def session (replies : List BusReply) (inputs : List Input) : State :=
  { State.reset with handles := [some .a39], busReplies := replies, inputs := inputs }

/-- The results after an outcome. -/
def resultsOf (o : Host.Outcome State Fault Refusal) : List Result :=
  match o with
  | .next t => t.results
  | .fault _ => []
  | .refused _ => []

/-- The bus transactions after an outcome. -/
def traceOf (o : Host.Outcome State Fault Refusal) : List BusCall :=
  match o with
  | .next t => t.busTrace
  | .fault _ => []
  | .refused _ => []

/-- The handles after an outcome. -/
def handlesOf (o : Host.Outcome State Fault Refusal) : List (Option BusAddr) :=
  match o with
  | .next t => t.handles
  | .fault _ => []
  | .refused _ => []

/-- The reason of a refusal. -/
def refusalOf (o : Host.Outcome State Fault Refusal) : Option Refusal :=
  match o with
  | .next _ => none
  | .fault _ => none
  | .refused r => some r

/-! ## Ill-formed inputs are refused by the checks (X1 to X5, X8) -/

theorem test_wellFormed_addrOf_refuses_13 : (Ports.addrOf 13).wellFormed = false := by decide
theorem test_wellFormed_addrOf_admits_12 : (Ports.addrOf 12).wellFormed = true := by decide
theorem test_wellFormed_buildCmd_refuses_15 : (Ports.buildCmd 15 true true true).wellFormed = false := by decide
theorem test_wellFormed_buildCmd_admits_12 : (Ports.buildCmd 12 false false false).wellFormed = true := by decide
theorem test_wellFormed_encTiming_refuses_3 : (Ports.encTiming 3 0).wellFormed = false := by decide
theorem test_wellFormed_encTiming_admits_2 : (Ports.encTiming 2 1).wellFormed = true := by decide
theorem test_wellFormed_construct_refuses_38 : (EnvOp.construct (some 0x38)).wellFormed = false := by decide
theorem test_wellFormed_construct_admits_49 : (EnvOp.construct (some 0x49)).wellFormed = true := by decide

/-! ## Every constructor's decoding, from a word written out bit by bit -/

theorem test_decode_cmdControl : decode .cmdByte [0b10100000#8] = .ok (.cmdControl ⟨false, true, false⟩) := rfl
theorem test_decode_cmdTiming : decode .cmdByte [0b11000001#8] = .ok (.cmdTiming ⟨true, false, false⟩) := rfl
theorem test_decode_cmdThreshLowLow : decode .cmdByte [0b10010010#8] = .ok (.cmdThreshLowLow ⟨false, false, true⟩) := rfl
theorem test_decode_cmdThreshLowHigh : decode .cmdByte [0b11100011#8] = .ok (.cmdThreshLowHigh ⟨true, true, false⟩) := rfl
theorem test_decode_cmdThreshHighLow : decode .cmdByte [0b10110100#8] = .ok (.cmdThreshHighLow ⟨false, true, true⟩) := rfl
theorem test_decode_cmdThreshHighHigh : decode .cmdByte [0b11010101#8] = .ok (.cmdThreshHighHigh ⟨true, false, true⟩) := rfl
theorem test_decode_cmdInterrupt : decode .cmdByte [0b11000110#8] = .ok (.cmdInterrupt ⟨true, false, false⟩) := rfl
theorem test_decode_cmdCrc : decode .cmdByte [0b10011000#8] = .ok (.cmdCrc ⟨false, false, true⟩) := rfl
theorem test_decode_cmdId : decode .cmdByte [0b11001010#8] = .ok (.cmdId ⟨true, false, false⟩) := rfl
theorem test_decode_cmdData0Low : decode .cmdByte [0b10101100#8] = .ok (.cmdData0Low ⟨false, true, false⟩) := rfl
theorem test_decode_cmdData0High : decode .cmdByte [0b10001101#8] = .ok (.cmdData0High ⟨false, false, false⟩) := rfl
theorem test_decode_cmdData1Low : decode .cmdByte [0b10101110#8] = .ok (.cmdData1Low ⟨false, true, false⟩) := rfl
theorem test_decode_cmdData1High : decode .cmdByte [0b11111111#8] = .ok (.cmdData1High ⟨true, true, true⟩) := rfl
theorem test_decode_cmdReserved7 : decode .cmdByte [0b10100111#8] = .ok (.cmdReserved7 ⟨false, true, false⟩) := rfl
theorem test_decode_cmdReserved9 : decode .cmdByte [0b10001001#8] = .ok (.cmdReserved9 ⟨false, false, false⟩) := rfl
theorem test_decode_cmdReservedB : decode .cmdByte [0b11111011#8] = .ok (.cmdReservedB ⟨true, true, true⟩) := rfl
theorem test_decode_notCmd : decode .cmdByte [0b00101100#8] = .ok (.notCmd 0b0101100#7) := rfl
theorem test_decode_addrOf : decode .addrOf [0b00001010#8] = .ok (.addrOf .id) := rfl
theorem test_decode_buildCmd : decode .buildCmd [0b11001010#8] = .ok (.buildCmd .id ⟨true, false, false⟩) := rfl
theorem test_decode_decodeWord : decode .decodeWord [0x05, 0x01] = .ok (.decodeWord 0x05 0x01) := rfl
theorem test_decode_encodeWord : decode .encodeWord [0xEF, 0xBE] = .ok (.encodeWord 0xBEEF) := rfl
theorem test_decode_encTiming : decode .encTiming [0b00010001#8] = .ok (.encTiming .ms101 .high) := rfl

/-! Words that are of no row in their format (R45, R46, R48, R55; X4, X5). -/

theorem test_reject_addrOf_reserved : decode .addrOf [0x09] = .error .reservedAddress := rfl
theorem test_reject_addrOf_wide : decode .addrOf [0x1C] = .error .addressTooWide := rfl
theorem test_reject_buildCmd_no_valid : decode .buildCmd [0x2C] = .error .commandValidClear := rfl
theorem test_reject_buildCmd_reserved : decode .buildCmd [0xFB] = .error .reservedAddress := rfl
theorem test_reject_encTiming_03 : decode .encTiming [0x03] = .error .timingByteNotProduced := rfl
theorem test_reject_encTiming_bit3 : decode .encTiming [0x08] = .error .timingByteNotProduced := rfl
theorem test_reject_length : decode .decodeWord [0x34] = .error .wrongLength := rfl

/-! Ports (the `ports` columns of spec/95_test_vectors.md section 3). -/

theorem test_ports_S2a : decodePorts (.buildCmd 9 true false false) = .ok (.buildCmd .data0Low ⟨false, true, false⟩) := rfl
theorem test_ports_B9 : decodePorts (.buildCmd 6 false true false) = .ok (.buildCmd .interrupt ⟨true, false, false⟩) := rfl
theorem test_ports_T6 : decodePorts (.encTiming 0b10 1) = .ok (.encTiming .ms402 .high) := rfl
theorem test_ports_X1 : decodePorts (.addrOf 13) = .error .regSelNamesNoRegister := rfl
theorem test_ports_X4 : decodePorts (.encTiming 0b11 0) = .error .integNamesNoSetting := rfl

/-! Bare table words (log 2): eight bits to the command-byte rows, sixteen to `DECODEWORD`. -/

theorem test_tableWord_AC : decodeTableWord 8 0xAC = some (.cmdData0Low ⟨false, true, false⟩) := rfl
theorem test_tableWord_1234 : decodeTableWord 16 0x1234 = some (.decodeWord 0x34 0x12) := rfl

/-! ## One step of each instruction -/

theorem test_exec_A8 : resultsOf (exec (.addrOf .crc) State.reset) = [.addr 0x08] := by decide
theorem test_exec_A13 : resultsOf (exec (.addrOf .data1High) State.reset) = [.addr 0x0F] := by decide
theorem test_exec_S2a : resultsOf (exec (.buildCmd .data0Low ⟨false, true, false⟩) State.reset) = [.cmd 0xAC] := by decide
theorem test_exec_B7 : resultsOf (exec (.buildCmd .data0Low ⟨false, true, true⟩) State.reset) = [.cmd 0xBC] := by decide
theorem test_exec_W10 : resultsOf (exec (.decodeWord 0x34 0x12) State.reset) = [.word 0x1234] := by decide
theorem test_exec_W3 : resultsOf (exec (.decodeWord 0xFF 0x00) State.reset) = [.word 0x00FF] := by decide
theorem test_exec_E8 : resultsOf (exec (.encodeWord 0x1234) State.reset) = [.bytePair 0x34 0x12] := by decide
theorem test_exec_E4 : resultsOf (exec (.encodeWord 0xFF00) State.reset) = [.bytePair 0x00 0xFF] := by decide
theorem test_exec_T6 : resultsOf (exec (.encTiming .ms402 .high) State.reset) = [.timing 0x12] := by decide
theorem test_exec_T4 : resultsOf (exec (.encTiming .ms13 .high) State.reset) = [.timing 0x10] := by decide

/-- What a step makes of one byte presented to the command-byte decoder. -/
def reportOf (c : Byte) : List Result :=
  resultsOf (step { State.reset with inputs := [.word .cmdByte [c]] })

theorem test_step_K1_control : reportOf 0x80 = [.report (.command .control ⟨false, false, false⟩)] := by decide
theorem test_step_K4_timing : reportOf 0x81 = [.report (.command .timing ⟨false, false, false⟩)] := by decide
theorem test_step_threshLowLow : reportOf 0x92 = [.report (.command .threshLowLow ⟨false, false, true⟩)] := by decide
theorem test_step_threshLowHigh : reportOf 0xA3 = [.report (.command .threshLowHigh ⟨false, true, false⟩)] := by decide
theorem test_step_threshHighLow : reportOf 0xC4 = [.report (.command .threshHighLow ⟨true, false, false⟩)] := by decide
theorem test_step_threshHighHigh : reportOf 0xF5 = [.report (.command .threshHighHigh ⟨true, true, true⟩)] := by decide
theorem test_step_interrupt : reportOf 0xC6 = [.report (.command .interrupt ⟨true, false, false⟩)] := by decide
theorem test_step_K8_crc : reportOf 0x98 = [.report (.command .crc ⟨false, false, true⟩)] := by decide
theorem test_step_K7_id : reportOf 0xCA = [.report (.command .id ⟨true, false, false⟩)] := by decide
theorem test_step_K2_data0Low : reportOf 0xAC = [.report (.command .data0Low ⟨false, true, false⟩)] := by decide
theorem test_step_data0High : reportOf 0xAD = [.report (.command .data0High ⟨false, true, false⟩)] := by decide
theorem test_step_K3_data1Low : reportOf 0xAE = [.report (.command .data1Low ⟨false, true, false⟩)] := by decide
theorem test_step_K5_data1High : reportOf 0xFF = [.report (.command .data1High ⟨true, true, true⟩)] := by decide
theorem test_step_K12_reserved7 : reportOf 0xA7 = [.report (.reservedAddress 0x7 ⟨false, true, false⟩)] := by decide
theorem test_step_P3_reserved9 : reportOf 0x99 = [.report (.reservedAddress 0x9 ⟨false, false, true⟩)] := by decide
theorem test_step_K13_reservedB : reportOf 0xFB = [.report (.reservedAddress 0xB ⟨true, true, true⟩)] := by decide
theorem test_step_K16_notCmd : reportOf 0x2C = [.report .notCommand] := by decide

theorem test_step_X1 : refusalOf (step { State.reset with inputs := [.ports (.addrOf 13)] }) =
    some (.rejected .regSelNamesNoRegister) := by decide
theorem test_step_withFetchWord : resultsOf (step (State.reset.withFetchWord 8 0x8C)) =
    [.report (.command .data0Low ⟨false, false, false⟩)] := by decide

/-! ## The environment (S6 to S8, P5, X8) -/

theorem test_S6a_trace : traceOf (execEnv (.powerOn 0) (session [.ok []] [])) = [.write .a39 [0x80, 0x03]] := by decide
theorem test_S6b_trace : traceOf (execEnv (.powerOff 0) (session [.ok []] [])) = [.write .a39 [0x80, 0x00]] := by decide
theorem test_S7_count : resultsOf (execEnv (.readVisibleAndIrRaw 0) (session [.ok [0x10, 0x00]] [])) = [.count 16] := by decide
theorem test_S7_trace : traceOf (execEnv (.readVisibleAndIrRaw 0) (session [.ok [0x10, 0x00]] [])) =
    [.writeRead .a39 [0xAC] 2] := by decide
theorem test_S9_count : resultsOf (execEnv (.readIrRaw 0) (session [.ok [0x05, 0x01]] [])) = [.count 261] := by decide
theorem test_S9_configure : traceOf (execEnv (.configureTimingAndGain 0 .ms101 .low) (session [.ok []] [])) =
    [.write .a39 [0x81, 0x01]] := by decide
theorem test_S8d_error (e : BusError) : resultsOf (execEnv (.readIrRaw 0) (session [.err e] [])) = [.busError e] := rfl
theorem test_S8f_no_handle (e : BusError) :
    handlesOf (execConstruct true none { State.reset with busReplies := [.err e] }) = [] := rfl
/-- P4, its first two calls on a handle: the outcomes reach the caller one after the other. -/
theorem test_P4_outcomes_in_order (e : BusError) : resultsOf (core.run 2 (session [.err e, .ok []]
    [.env (.powerOn 0), .env (.powerOn 0)])) = [.busError e, .ok] := rfl
theorem test_P1_construct : handlesOf (execConstruct false none State.reset) = [some .a39] := by decide
theorem test_P5a_trace : traceOf (execConstruct true none { State.reset with busReplies := [.ok []] }) =
    [.write .a39 [0x80, 0x03]] := by decide
theorem test_X8_refused : refusalOf (execConstruct false (some 0x38) State.reset) = some (.notABusAddress 0x38) := by decide
theorem test_no_handle_refused : refusalOf (execEnv (.powerOn 0) State.reset) = some (.noSuchHandle 0) := by decide

/-! ## The one-line spelling (R53) -/

theorem test_spell_buildCmd : spell (.buildCmd .data0Low ⟨true, true, true⟩) = some "BUILDCMD DATA0LOW, W, C, B" := by decide
theorem test_spell_decodeWord : spell (.decodeWord 0x34 0x12) = some "DECODEWORD 0x34, 0x12" := by decide

/-! ## Witnesses of the statements' hypotheses -/

theorem witness_AddressMapLaws : addrOf .data1High = addrOf .data1High ∧ (regEnc .control).toNat < (regEnc .data1High).toNat ∧
    regOf 0x0 = some .control ∧ regOf 0xF = some .data1High := by decide

/-- A step that issues a transaction (ThresholdInterruptCrcIdBytes, NewTransactionsHaveValidCommandBytes). -/
theorem witness_step_with_transaction : ∃ t, step (session [.ok []] [.env (.powerOn 0)]) = .next t ∧
    t.busTrace = (session [.ok []] [.env (.powerOn 0)]).busTrace ++ [.write .a39 [0x80, 0x03]] := ⟨_, rfl, by decide⟩

theorem witness_EnctimingCompleteFunction : ∀ s, exec (.encTiming .ms402 .high) s =
    .next { s with results := s.results ++ [.timing 0x12] } := fun _ => rfl

theorem witness_EnctimingProducesExactlySixBytes :
    (0x03 : Byte) ∉ ([0x00, 0x01, 0x02, 0x10, 0x11, 0x12] : List Byte) ∧
    (0x13 : Byte) ∉ ([0x00, 0x01, 0x02, 0x10, 0x11, 0x12] : List Byte) := by decide

theorem witness_DecodeCmd_notCommand : (0x00 : Byte).getLsbD 7 = false ∧ (0x7F : Byte).getLsbD 7 = false := by decide
theorem witness_DecodeCmd_reserved : (0x87 : Byte).getLsbD 7 = true ∧ (0x87 : Byte).extractLsb' 0 4 = 0x7 ∧
    (0x89 : Byte).extractLsb' 0 4 = 0x9 ∧ (0xFB : Byte).getLsbD 7 = true ∧ (0xFB : Byte).extractLsb' 0 4 = 0xB := by decide
theorem witness_DecodeCmd_command : (0x80 : Byte).getLsbD 7 = true ∧
    addrOf .control = ((0x80 : Byte).extractLsb' 0 4).setWidth 8 ∧ (0xFF : Byte).getLsbD 7 = true ∧
    addrOf .data1High = ((0xFF : Byte).extractLsb' 0 4).setWidth 8 := by decide
theorem witness_DecodeCmd_inverse : ∀ s, exec (decodeCmdByte 0xAC) s =
    .next { s with results := s.results ++ [.report (.command .data0Low ⟨false, true, false⟩)] } := fun _ => rfl

/-- The first and the last of the 24 bytes, each with its reserved address. -/
theorem witness_ReservedAddressBytes : ∀ c ∈ ([0x87, 0xFB] : List Byte),
    c ∈ ([0x87, 0x89, 0x8B, 0x97, 0x99, 0x9B, 0xA7, 0xA9, 0xAB, 0xB7, 0xB9, 0xBB,
      0xC7, 0xC9, 0xCB, 0xD7, 0xD9, 0xDB, 0xE7, 0xE9, 0xEB, 0xF7, 0xF9, 0xFB] : List Byte) ∧
    (c.extractLsb' 0 4 = 0x7 ∨ c.extractLsb' 0 4 = 0xB) := by decide
theorem witness_BytesWithoutCommandValid : (0x00 : Byte).toNat < 0x80 ∧ (0x7F : Byte).toNat < 0x80 := by decide

theorem witness_EncodeOfDecodedWord : decode .encTiming [0x12] = .ok (.encTiming .ms402 .high) := rfl

theorem witness_PortPatterns_refused : (session [] [.ports (.addrOf 13)]).inputs = .ports (.addrOf 13) :: [] ∧
    13 ≤ (13 : BitVec 4).toNat ∧ 13 ≤ (15 : BitVec 4).toNat ∧
    (session [] [.ports (.encTiming 3 1)]).inputs = .ports (.encTiming 3 1) :: [] ∧
    (session [] [.ports (.buildCmd 15 true true true)]).inputs = .ports (.buildCmd 15 true true true) :: [] := by decide
theorem witness_PortPatterns_run : (session [] [.ports (.addrOf 12)]).inputs = .ports (.addrOf 12) :: [] ∧
    (Ports.addrOf 12).wellFormed = true ∧ (Ports.encTiming 2 0).wellFormed = true := by decide
theorem witness_RegSelFollowsListingOrder :
    (session [] [.ports (.addrOf (BitVec.ofNat 4 12))]).inputs = .ports (.addrOf (BitVec.ofNat 4 12)) :: [] ∧ 12 < 13 ∧
    ([0x0, 0x1, 0x2, 0x3, 0x4, 0x5, 0x6, 0x8, 0xA, 0xC, 0xD, 0xE, 0xF] : List Byte)[12]? = some 0x0F := by decide

theorem witness_StepRuns_word : (session [] [.word .cmdByte [0x80]]).inputs = .word .cmdByte [0x80] :: [] ∧
    decode .cmdByte [0x80] = .ok (.cmdControl ⟨false, false, false⟩) := ⟨rfl, rfl⟩
theorem witness_StepRuns_ports : (session [] [.ports (.addrOf 7)]).inputs = .ports (.addrOf 7) :: [] ∧
    decodePorts (.addrOf 7) = .ok (.addrOf .crc) := ⟨rfl, rfl⟩
theorem witness_StepRuns_reject : (session [] [.word .addrOf [0x07]]).inputs = .word .addrOf [0x07] :: [] ∧
    decode .addrOf [0x07] = .error .reservedAddress := ⟨rfl, rfl⟩
theorem witness_StepRuns_env : (session [] [.env (.powerOn 0)]).inputs = .env (.powerOn 0) :: [] := rfl

theorem witness_PlacedTableWord : decodeTableWord 8 0x87 = some (.cmdReserved7 ⟨false, false, false⟩) := rfl
theorem witness_NothingPresented : State.reset.inputs = [] := rfl
theorem witness_Accepted : Accepted State.reset := fun _ _ h => nomatch h
theorem witness_Accepted_word : Accepted (session [] [.word .cmdByte [0xFF]]) := by
  rintro _ _ ⟨⟩; exact ⟨.cmdData1High ⟨true, true, true⟩, rfl⟩
theorem witness_Accepted_ports : Accepted (session [] [.ports (.buildCmd 12 true false true)]) := by
  rintro _ _ ⟨⟩; rfl
theorem witness_Accepted_env : Accepted (session [] [.env (.powerOff 0)]) := by
  rintro _ _ ⟨⟩; exact ⟨rfl, fun _ h => by cases h; exact ⟨.a39, rfl⟩⟩
/-- The other direction: a step that completes with an input presented. -/
theorem witness_Accepted_step : ∃ t, step (session [.ok []] [.env (.construct (some 0x49))]) = .next t := ⟨_, rfl⟩

theorem witness_Construct_ok : busReplyOf (session [.ok []] []) = .ok [] := rfl
theorem witness_Construct_err : busReplyOf (session [.err (.drawn 7)] []) = .err (.drawn 7) := rfl
theorem witness_Construct_other : (0x38 : BitVec 7) ≠ 0x29 ∧ (0x38 : BitVec 7) ≠ 0x39 ∧ (0x38 : BitVec 7) ≠ 0x49 := by decide

/-- A handle, and an outcome of each kind (the statements about single operations). -/
theorem witness_handle : (session [] []).handles[0]? = some (some .a39) := rfl
theorem witness_read_outcome : busReplyOf (session [.ok [0xFF, 0xFF]] []) = .ok (0xFF :: 0xFF :: []) := rfl
theorem witness_transacts : transacts (.powerOff 0) = true ∧ handleOf (.powerOff 0) = some 0 ∧
    (session [.err (.drawn 7)] []).handles[0]? = some (some .a39) ∧
    busReplyOf (session [.err (.drawn 7)] []) = .err (.drawn 7) := ⟨rfl, rfl, rfl, rfl⟩

theorem witness_EnvironmentFrame : ∃ t, execEnv (.readIrRaw 0) (session [.ok [0x05, 0x01]] []) = .next t ∧
    handleOf (.readIrRaw 0) = some 0 ∧ BusAddr.a29 ≠ BusAddr.a39 := ⟨_, rfl, rfl, by decide⟩
theorem witness_EnvironmentFrame_construct : ∃ t, execEnv (.construct (some (busAddrBits .a29))) (session [] []) = .next t ∧
    (session [] []).handles[0]? = some (some .a39) ∧ EnvOp.construct (some (busAddrBits .a29)) ≠ .dropHandle 0 :=
  ⟨_, rfl, rfl, by decide⟩
theorem witness_EnvironmentFrame_powerDown : ∃ t, execEnv (.devicePowerDown .a49) (session [] []) = .next t ∧
    BusAddr.a29 ≠ BusAddr.a49 := ⟨_, rfl, by decide⟩
theorem witness_EnvironmentFrame_powerUp : ∃ t, execEnv (.devicePowerUp .a39) (session [] []) = .next t ∧
    BusAddr.a29 ≠ BusAddr.a39 := ⟨_, rfl, by decide⟩
/-- Both ways a construction names its address (EnvironmentFrame, FailedTransactionLeavesRegistersFree,
EveryTransactionUsesUpItsOutcome), and that the default construction completes. -/
theorem witness_ConstructsAt : ConstructsAt (some 0x49) .a49 ∧ ConstructsAt none .a39 ∧
    ∃ t, execEnv (.construct none) (session [.err (.drawn 7)] []) = .next t := ⟨.inl rfl, .inr ⟨rfl, rfl⟩, _, rfl⟩
/-- Two outcomes fixed in order (P4, its first two). -/
theorem witness_EveryTransactionUsesUpItsOutcome :
    (session [.err (.drawn 1), .ok []] []).busReplies = .err (.drawn 1) :: .ok [] :: [] ∧ transacts (.powerOn 0) = true ∧
    (session [.err (.drawn 1), .ok []] []).handles[0]? = some (some .a39) := ⟨rfl, rfl, rfl⟩
theorem witness_no_transaction : ∃ t, execEnv (.dropHandle 0) (session [.ok []] []) = .next t ∧
    transacts (.dropHandle 0) = false ∧ ∀ address, EnvOp.dropHandle 0 ≠ .construct address := ⟨_, rfl, rfl, nofun⟩
theorem witness_EveryStepKeepsTraceLegal : TraceLegal (session [.ok []] [.env (.powerOn 0)]) ∧
    ∃ t, step (session [.ok []] [.env (.powerOn 0)]) = .next t :=
  ⟨fun _ h => absurd h (List.not_mem_nil), _, rfl⟩
theorem witness_HandleAddressNeverChanges : ∃ t, step (session [] [.env (.dropHandle 0)]) = .next t ∧
    (session [] [.env (.dropHandle 0)]).handles[0]? = some (some .a39) := ⟨_, rfl, rfl⟩

end Sys2Proof.Tests
end

section
/-! ENCTIMING: what its exec hands back, the bytes it produces, and what its word decoder accepts. -/

namespace Sys2Proof.Machine

/-- Two results handed back from one state give the same next state only if they are the same result. -/
@[simp] theorem answer_eq_next_iff (r r' : Result) (s : State) :
    answer r s = .next { s with results := s.results ++ [r'] } ↔ r = r' := by
  simp [answer, deliver]

/-- R87: the timing byte is the only byte that ENCTIMING hands back. -/
theorem exec_encTiming_iff (i : Integ) (g : Gain) (b : Byte) :
    (∀ s, exec (.encTiming i g) s = .next { s with results := s.results ++ [.timing b] }) ↔ timingByte i g = b := by
  have exec_eq (s : State) : exec (.encTiming i g) s = answer (.timing (timingByte i g)) s := rfl
  simp only [exec_eq, answer_eq_next_iff, Result.timing.injEq]
  exact ⟨fun h => h State.reset, fun h _ => h⟩

/-- R48: the six bytes, one for each pair of settings. -/
theorem mem_timingBytes_iff (b : Byte) :
    b ∈ ([0x00, 0x01, 0x02, 0x10, 0x11, 0x12] : List Byte) ↔ ∃ i g, timingByte i g = b := by
  constructor
  · simp only [List.mem_cons, List.not_mem_nil, or_false]
    rintro (rfl | rfl | rfl | rfl | rfl | rfl)
    · exact ⟨.ms13, .low, rfl⟩
    · exact ⟨.ms101, .low, rfl⟩
    · exact ⟨.ms402, .low, rfl⟩
    · exact ⟨.ms13, .high, rfl⟩
    · exact ⟨.ms101, .high, rfl⟩
    · exact ⟨.ms402, .high, rfl⟩
  · rintro ⟨i, g, rfl⟩
    cases i <;> cases g <;> decide

/-- R92: bits 7, 6, 5, 3 and 2 are clear. -/
theorem timingByte_and_unusedBits (i : Integ) (g : Gain) : timingByte i g &&& 0xEC = 0 := by
  cases i <;> cases g <;> rfl

/-- R43: the format `000g00ii`. -/
theorem timingByte_eq_append (i : Integ) (g : Gain) :
    timingByte i g = (0 : BitVec 3) ++ gainCode g ++ (0 : BitVec 2) ++ integCode i := by
  cases i <;> cases g <;> rfl

theorem integCode_of_integOf {c : BitVec 2} {i : Integ} (h : integOf c = some i) : integCode i = c := by
  have key : ∀ c : BitVec 2, ∀ i ∈ integOf c, integCode i = c := by decide
  exact key c i h

@[simp] theorem gainCode_gainOf (c : BitVec 1) : gainCode (gainOf c) = c := by
  revert c; decide

/-- A byte is its four fields in the format `000g00ii`. -/
theorem timingFields_append (b : Byte) :
    b.extractLsb' 5 3 ++ b.extractLsb' 4 1 ++ b.extractLsb' 2 2 ++ b.extractLsb' 0 2 = b := by
  have high : b.extractLsb' 5 3 ++ b.extractLsb' 4 1 = b.extractLsb' 4 4 :=
    BitVec.extractLsb'_append_extractLsb'_eq_extractLsb' rfl
  have middle : b.extractLsb' 4 4 ++ b.extractLsb' 2 2 = b.extractLsb' 2 6 :=
    BitVec.extractLsb'_append_extractLsb'_eq_extractLsb' rfl
  have low : b.extractLsb' 2 6 ++ b.extractLsb' 0 2 = b.extractLsb' 0 8 :=
    BitVec.extractLsb'_append_extractLsb'_eq_extractLsb' rfl
  rw [high, middle, low, BitVec.extractLsb'_eq_self]

/-- A word decodes to the settings whose timing byte it is, or it is reported as never produced (R48). -/
theorem decodeEncTiming_cases (b : Byte) :
    (∃ i g, timingByte i g = b ∧ decodeEncTiming b = .ok (.encTiming i g)) ∨
      decodeEncTiming b = .error .timingByteNotProduced := by
  unfold decodeEncTiming
  split
  next hzero =>
    obtain ⟨hhigh, hmid⟩ := hzero
    split
    next i hi =>
      refine .inl ⟨i, gainOf (b.extractLsb' 4 1), ?_, rfl⟩
      calc timingByte i (gainOf (b.extractLsb' 4 1))
          = b.extractLsb' 5 3 ++ b.extractLsb' 4 1 ++ b.extractLsb' 2 2 ++ b.extractLsb' 0 2 := by
            rw [timingByte_eq_append, gainCode_gainOf, integCode_of_integOf hi, hhigh, hmid]
        _ = b := timingFields_append b
    next => exact .inr rfl
  next => exact .inr rfl

/-- Settles O14: exec hands back the timing byte, the timing bytes are the six listed, and the decoder answers ok on timing
bytes only. -/
theorem enctimingProducesExactlySixBytes : Obligations.EnctimingProducesExactlySixBytes := by
  unfold Obligations.EnctimingProducesExactlySixBytes
  simp only [exec_encTiming_iff]
  refine ⟨fun i g => ⟨timingByte i g, rfl, timingByte_and_unusedBits i g⟩, fun b => (mem_timingBytes_iff b).symm, ?_⟩
  intro b hb
  obtain ⟨i, g, hbyte, -⟩ | herr := decodeEncTiming_cases b
  · exact absurd ((mem_timingBytes_iff b).2 ⟨i, g, hbyte⟩) hb
  · exact herr

end Sys2Proof.Machine
end

section
/-! The register address map, and the command bytes that carry its addresses: ADDROF's table, BUILDCMD's bytes of a register,
and the bytes a step puts on the bus. -/

namespace Sys2Proof.Machine

/-! ## The address map -/

/-- R56: ADDROF hands back the table's byte. -/
theorem exec_addrOf (r : Reg) (s : State) :
    exec (.addrOf r) s = .next { s with results := s.results ++ [.addr (addrOf r)] } := rfl

theorem addrOf_highNibble (r : Reg) : (addrOf r).extractLsb' 4 4 = 0 := by
  cases r <;> rfl

theorem addrOf_injective : Function.Injective addrOf := by
  intro r1 r2 h
  have hreg : some r1 = some r2 := by rw [← regOf_addrOf r1, h, regOf_addrOf]
  exact Option.some.inj hreg

/-- An address that no register has is one that `reg_of` calls `Reserved`. -/
theorem addrOf_ne_iff_regOf_eq_none (a : BitVec 4) : (∀ r, addrOf r ≠ a.setWidth 8) ↔ regOf a = none := by
  constructor
  · intro hne
    rw [Option.eq_none_iff_forall_ne_some]
    exact fun r hr => hne r (addrOf_of_regOf hr)
  · intro hnone r hr
    have hlow : ∀ a : BitVec 4, (a.setWidth 8).extractLsb' 0 4 = a := by decide
    have hreg : regOf a = some r := by rw [← hlow a, ← hr, regOf_addrOf]
    simp [hnone] at hreg

/-- A register's address is its ordinal plus the number of gaps below it: 0x7, 0x9 and 0xB come just before the ordinals 7, 8
and 9. -/
theorem addrOf_toNat (r : Reg) : (addrOf r).toNat = (regEnc r).toNat + min 3 ((regEnc r).toNat - 6) := by
  cases r <;> rfl

theorem addrOf_lt_of_regEnc_lt {r1 r2 : Reg} (h : (regEnc r1).toNat < (regEnc r2).toNat) :
    (addrOf r1).toNat < (addrOf r2).toNat := by
  rw [addrOf_toNat, addrOf_toNat]
  omega

/-- Settles O2: the laws (a) to (f) of R71, each by its lemma above; the gaps are the values `reg_of` calls `Reserved`. -/
theorem addressMapLaws : Obligations.AddressMapLaws := by
  unfold Obligations.AddressMapLaws
  refine ⟨addrOf_highNibble, fun _ _ h => addrOf_injective h, ?_, fun _ _ => addrOf_lt_of_regEnc_lt,
    ⟨rfl, rfl, rfl, rfl⟩, regOf_addrOf, fun _ _ => addrOf_of_regOf⟩
  exact fun a => (addrOf_ne_iff_regOf_eq_none a).trans (regOf_eq_none_iff a)

/-- Settles O1: ADDROF hands back the table's byte, read off for each of the thirteen identifiers. -/
theorem addrofReturnsTheConstantTable : Obligations.AddrofReturnsTheConstantTable := by
  unfold Obligations.AddrofReturnsTheConstantTable
  intro s
  exact ⟨exec_addrOf .control s, exec_addrOf .timing s, exec_addrOf .threshLowLow s, exec_addrOf .threshLowHigh s,
    exec_addrOf .threshHighLow s, exec_addrOf .threshHighHigh s, exec_addrOf .interrupt s, exec_addrOf .crc s,
    exec_addrOf .id s, exec_addrOf .data0Low s, exec_addrOf .data0High s, exec_addrOf .data1Low s,
    exec_addrOf .data1High s⟩

/-! ## The command bytes of a register -/

/-- R73: BUILDCMD hands back the command byte. -/
theorem exec_buildCmd (r : Reg) (f : CmdFlags) (s : State) :
    exec (.buildCmd r f) s = .next { s with results := s.results ++ [.cmd (commandByte r f)] } := rfl

/-- The table's mask 0x8F keeps command-valid and the address, and clears the three flags (R55). -/
theorem commandByte_and_patternMask (r : Reg) (f : CmdFlags) : commandByte r f &&& 0x8F = 0x80 ||| addrOf r := by
  have haddr : addrOf r &&& 0x8F = addrOf r := by cases r <;> rfl
  have hflags : packFlags f &&& 0x8F = 0 := by rcases f with ⟨_ | _, _ | _, _ | _⟩ <;> rfl
  have hvalid : commandValid &&& 0x8F = 0x80 := rfl
  calc commandByte r f &&& 0x8F
      = addrOf r &&& 0x8F ||| packFlags f &&& 0x8F ||| commandValid &&& 0x8F := by
        simp only [commandByte, BitVec.and_comm _ 0x8F, BitVec.and_or_distrib_left]
    _ = addrOf r ||| 0 ||| 0x80 := by rw [haddr, hflags, hvalid]
    _ = 0x80 ||| addrOf r := by rw [BitVec.ofNat_eq_ofNat, BitVec.or_zero, BitVec.or_comm]

/-- The low nibble of a command byte is the register's address (R79). -/
theorem commandByte_and_addressMask (r : Reg) (f : CmdFlags) : commandByte r f &&& 0x0F = addrOf r := by
  calc commandByte r f &&& 0x0F
      = commandByte r f &&& 0x8F &&& 0x0F := by rw [BitVec.and_assoc]; rfl
    _ = (0x80 ||| addrOf r) &&& 0x0F := by rw [commandByte_and_patternMask]
    _ = addrOf r := by cases r <;> rfl

/-- A register has its table address and its eight command bytes in the order of the flag settings. -/
theorem hasCommandBytes_of_eq {r : Reg} {a : Byte} {bytes : List Byte} (ha : addrOf r = a)
    (hbytes : eightFlags.zip bytes = eightFlags.map fun f => (f, commandByte r f)) : HasCommandBytes r a bytes := by
  subst ha
  intro s
  rw [hbytes, List.forall_mem_map]
  exact ⟨exec_addrOf r s, fun f _ => ⟨exec_buildCmd r f s, commandByte_and_patternMask r f⟩⟩

/-! ## What a step puts on the bus -/

/-- An instruction hands back one result, which does not depend on the state, and does nothing else. -/
theorem exec_eq_answer (i : Instr) : ∃ r, ∀ s, exec i s = answer r s := by
  cases i <;> exact ⟨_, fun _ => rfl⟩

theorem runDecoded_busTrace {d : Except Reject Instr} {s t : State} (h : runDecoded d s = .next t) :
    t.busTrace = s.busTrace := by
  cases d with
  | error r => cases h
  | ok i =>
    obtain ⟨r, hr⟩ := exec_eq_answer i
    cases (hr s).symm.trans h
    rfl

/-- The transactions at a bus address: power-on, power-off, the two channel reads, and TIMING with each timing byte. -/
theorem legalBusCalls_eq (a : BusAddr) : legalBusCalls a =
    [.write a powerOnBytes, .write a powerOffBytes, .writeRead a [commandByte .data0Low wordFlag] 2,
      .writeRead a [commandByte .data1Low wordFlag] 2] ++
    [0x00, 0x01, 0x02, 0x10, 0x11, 0x12].map fun d => .write a [commandByte .timing defaultFlags, d] := rfl

theorem legal_powerOn (a : BusAddr) : LegalBusCall (.write a powerOnBytes) :=
  ⟨a, by simp [legalBusCalls_eq]⟩

theorem legal_powerOff (a : BusAddr) : LegalBusCall (.write a powerOffBytes) :=
  ⟨a, by simp [legalBusCalls_eq]⟩

theorem legal_readVisibleAndIrRaw (a : BusAddr) : LegalBusCall (.writeRead a [commandByte .data0Low wordFlag] 2) :=
  ⟨a, by simp [legalBusCalls_eq]⟩

theorem legal_readIrRaw (a : BusAddr) : LegalBusCall (.writeRead a [commandByte .data1Low wordFlag] 2) :=
  ⟨a, by simp [legalBusCalls_eq]⟩

theorem legal_configure (a : BusAddr) (i : Integ) (g : Gain) : LegalBusCall (.write a (configureBytes i g)) := by
  refine ⟨a, ?_⟩
  rw [legalBusCalls_eq]
  exact List.mem_append_right _ (List.mem_map_of_mem ((mem_timingBytes_iff _).2 ⟨i, g, rfl⟩))

/-- From `s` to `t` the trace stays as it is or grows by one transaction that the environment can issue (R103). -/
def TraceGrowsLegally (s t : State) : Prop :=
  t.busTrace = s.busTrace ∨ ∃ call, LegalBusCall call ∧ t.busTrace = s.busTrace ++ [call]

/-- A construction that completes is `constructAt` some bus address. -/
theorem execConstruct_next {powersOn : Bool} {address : Option (BitVec 7)} {s t : State}
    (h : execConstruct powersOn address s = .next t) : ∃ a, t = constructAt powersOn a s := by
  unfold execConstruct at h
  split at h
  · exact ⟨defaultBusAddr, by cases h; rfl⟩
  · split at h
    · exact ⟨_, by cases h; rfl⟩
    · cases h

theorem constructAt_traceGrowsLegally (powersOn : Bool) (a : BusAddr) (s : State) :
    TraceGrowsLegally s (constructAt powersOn a s) := by
  cases powersOn with
  | false => exact .inl rfl
  | true =>
    obtain ⟨-, htrace, -⟩ := constructAt_powersOn_spec a s
    exact .inr ⟨_, legal_powerOn a, htrace⟩

theorem writeOperation_traceGrowsLegally {a : BusAddr} {bytes : List Byte} (s : State)
    (hlegal : LegalBusCall (.write a bytes)) : TraceGrowsLegally s (writeOperation a bytes s) := by
  obtain ⟨-, htrace, -⟩ := writeOperation_spec a bytes s
  exact .inr ⟨_, hlegal, htrace⟩

theorem readOperation_traceGrowsLegally {a : BusAddr} {low : Reg} (s : State)
    (hlegal : LegalBusCall (.writeRead a [commandByte low wordFlag] 2)) :
    TraceGrowsLegally s (readOperation a low s) := by
  obtain ⟨-, htrace, -⟩ := readOperation_spec a low s
  exact .inr ⟨_, hlegal, htrace⟩

theorem onHandle_traceGrowsLegally {h : Nat} {k : BusAddr → State → State} {s t : State}
    (hk : ∀ a, TraceGrowsLegally s (k a s)) (ht : onHandle h k s = .next t) : TraceGrowsLegally s t := by
  obtain ⟨a, -, rfl⟩ := onHandle_next.1 ht
  exact hk a

theorem execEnv_traceGrowsLegally {op : EnvOp} {s t : State} (h : execEnv op s = .next t) : TraceGrowsLegally s t := by
  cases op with
  | construct address =>
    obtain ⟨a, rfl⟩ := execConstruct_next h
    exact constructAt_traceGrowsLegally _ a s
  | powerOn => exact onHandle_traceGrowsLegally (fun a => writeOperation_traceGrowsLegally s (legal_powerOn a)) h
  | powerOff => exact onHandle_traceGrowsLegally (fun a => writeOperation_traceGrowsLegally s (legal_powerOff a)) h
  | readVisibleAndIrRaw =>
    exact onHandle_traceGrowsLegally (fun a => readOperation_traceGrowsLegally s (legal_readVisibleAndIrRaw a)) h
  | readIrRaw => exact onHandle_traceGrowsLegally (fun a => readOperation_traceGrowsLegally s (legal_readIrRaw a)) h
  | configureTimingAndGain _ i g =>
    exact onHandle_traceGrowsLegally (fun a => writeOperation_traceGrowsLegally s (legal_configure a i g)) h
  | dropHandle => exact onHandle_traceGrowsLegally (fun _ => .inl rfl) h
  | devicePowerDown => cases h; exact .inl rfl
  | devicePowerUp => cases h; exact .inl rfl

theorem runInput_traceGrowsLegally {x : Input} {s t : State} (h : runInput x s = .next t) : TraceGrowsLegally s t := by
  cases x with
  | ports p => exact .inl (runDecoded_busTrace h)
  | word fn bytes => exact .inl (runDecoded_busTrace h)
  | env op => exact execEnv_traceGrowsLegally h

/-- R103: a step issues no transaction, or one that the environment can issue. -/
theorem step_traceGrowsLegally {s t : State} (h : step s = .next t) : TraceGrowsLegally s t := by
  obtain ⟨-, rfl⟩ | ⟨x, rest, -, hrun⟩ := step_cases h
  · exact .inl rfl
  · have hgrows : TraceGrowsLegally { s with inputs := rest } t := runInput_traceGrowsLegally hrun
    exact hgrows

/-- The transactions a step appended, whatever way they are split off, are ones that the environment can issue. -/
theorem legal_of_mem_new {s t : State} {new : List BusCall} (h : step s = .next t)
    (hnew : t.busTrace = s.busTrace ++ new) : ∀ call ∈ new, LegalBusCall call := by
  obtain hsame | ⟨issued, hlegal, hgrows⟩ := step_traceGrowsLegally h
  · have hnil : new = [] := by simpa [hsame] using hnew
    simp [hnil]
  · have hone : new = [issued] := List.append_cancel_left (hnew.symm.trans hgrows)
    simp [hone, hlegal]

/-- Every transaction opens with a command byte of CONTROL, TIMING, DATA0LOW or DATA1LOW (R97 to R101). -/
theorem commandByte_of_legal {call : BusCall} (h : LegalBusCall call) : ∃ r f,
    r ∈ [Reg.control, Reg.timing, Reg.data0Low, Reg.data1Low] ∧
      (busCallBytes call).head? = some (commandByte r f) := by
  obtain ⟨a, hmem⟩ := h
  simp only [legalBusCalls_eq, List.mem_append, List.mem_cons, List.not_mem_nil, or_false] at hmem
  obtain (rfl | rfl | rfl | rfl) | htiming := hmem
  · exact ⟨.control, defaultFlags, by decide, rfl⟩
  · exact ⟨.control, defaultFlags, by decide, rfl⟩
  · exact ⟨.data0Low, wordFlag, by decide, rfl⟩
  · exact ⟨.data1Low, wordFlag, by decide, rfl⟩
  · obtain ⟨d, -, rfl⟩ := List.mem_map.1 htiming
    exact ⟨.timing, defaultFlags, by decide, rfl⟩

/-- Settles O7: the bytes by evaluation of the table and BUILDCMD's formula; no step uses them, since a step's transaction is
a legal one, and those open with a command byte of CONTROL, TIMING, DATA0LOW or DATA1LOW. -/
theorem thresholdInterruptCrcIdBytes : Obligations.ThresholdInterruptCrcIdBytes := by
  unfold Obligations.ThresholdInterruptCrcIdBytes
  constructor
  · exact ⟨hasCommandBytes_of_eq rfl rfl, hasCommandBytes_of_eq rfl rfl, hasCommandBytes_of_eq rfl rfl,
      hasCommandBytes_of_eq rfl rfl, hasCommandBytes_of_eq rfl rfl, hasCommandBytes_of_eq rfl rfl,
      hasCommandBytes_of_eq rfl rfl⟩
  · intro s t new hstep hnew call hcall
    obtain ⟨r, f, hr, hhead⟩ := commandByte_of_legal (legal_of_mem_new hstep hnew call hcall)
    refine ⟨commandByte r f, hhead, ?_⟩
    have hunused : ∀ r ∈ [Reg.control, Reg.timing, Reg.data0Low, Reg.data1Low],
        addrOf r ∉ ([0x02, 0x03, 0x04, 0x05, 0x06, 0x08, 0x0A] : List Byte) := by decide
    rw [commandByte_and_addressMask]
    exact hunused r hr

end Sys2Proof.Machine
end

section
/-! BUILDCMD: the command byte is the row pattern `1cwbaaaa` of its operands, so its five fields are disjoint and each operand
reads back. -/

namespace Sys2Proof.Machine

/-! ## The pattern `1cwbaaaa` (R41) -/

theorem cmdPattern_commandValid (f : CmdFlags) (a : BitVec 4) : (cmdPattern f a).getLsbD 7 = true := by
  simp only [cmdPattern, BitVec.getLsbD_append]
  rfl

@[simp] theorem flagFields_cmdPattern (f : CmdFlags) (a : BitVec 4) : flagFields (cmdPattern f a) = f := by
  simp only [flagFields, cmdPattern, BitVec.getLsbD_append, BitVec.getLsbD_ofBool]
  rfl

@[simp] theorem addrField_cmdPattern (f : CmdFlags) (a : BitVec 4) : addrField (cmdPattern f a) = a :=
  BitVec.extractLsb'_append_eq_right

/-- Concatenation is a sum: the low part fills only the places that the shift left free. -/
theorem toNat_append_eq_add {m n : Nat} (x : BitVec m) (y : BitVec n) :
    (x ++ y).toNat = x.toNat * 2 ^ n + y.toNat := by
  rw [BitVec.toNat_append, ← Nat.shiftLeft_add_eq_or_of_lt y.isLt, Nat.shiftLeft_eq]

/-- The pattern as the sum of its fields, each by its weight (R74 to R77). -/
theorem cmdPattern_toNat (f : CmdFlags) (a : BitVec 4) : (cmdPattern f a).toNat =
    128 + 64 * f.clear.toNat + 32 * f.word.toNat + 16 * f.block.toNat + a.toNat := by
  simp only [cmdPattern, toNat_append_eq_add, BitVec.toNat_ofBool, BitVec.toNat_ofNat]
  omega

/-! ## The command byte's fields -/

/-- BUILDCMD's shifts and ORs give the table's pattern, for all 104 operand combinations. -/
theorem commandByte_eq_cmdPattern (r : Reg) (f : CmdFlags) : commandByte r f = cmdPattern f (addrField (addrOf r)) := by
  rcases f with ⟨_ | _, _ | _, _ | _⟩ <;> cases r <;> rfl

theorem commandByte_commandValid (r : Reg) (f : CmdFlags) : (commandByte r f).getLsbD 7 = true := by
  rw [commandByte_eq_cmdPattern, cmdPattern_commandValid]

/-- The three flags read back (R79). -/
theorem flagFields_commandByte (r : Reg) (f : CmdFlags) : flagFields (commandByte r f) = f := by
  rw [commandByte_eq_cmdPattern, flagFields_cmdPattern]

theorem commandByte_clear (r : Reg) (f : CmdFlags) : (commandByte r f).getLsbD 6 = f.clear :=
  congrArg CmdFlags.clear (flagFields_commandByte r f)

theorem commandByte_word (r : Reg) (f : CmdFlags) : (commandByte r f).getLsbD 5 = f.word :=
  congrArg CmdFlags.word (flagFields_commandByte r f)

theorem commandByte_block (r : Reg) (f : CmdFlags) : (commandByte r f).getLsbD 4 = f.block :=
  congrArg CmdFlags.block (flagFields_commandByte r f)

/-- The low nibble names the register it was built from (R79). -/
theorem regOf_addrField_commandByte (r : Reg) (f : CmdFlags) : regOf (addrField (commandByte r f)) = some r := by
  rw [commandByte_eq_cmdPattern, addrField_cmdPattern]
  exact regOf_addrOf r

/-- The low nibble is never a reserved address (R73). -/
theorem addrField_commandByte_not_reserved (r : Reg) (f : CmdFlags) : ¬ (addrField (commandByte r f) = 0x7 ∨
    addrField (commandByte r f) = 0x9 ∨ addrField (commandByte r f) = 0xB) := by
  rw [← regOf_eq_none_iff, regOf_addrField_commandByte]
  exact Option.some_ne_none r

/-- The OR of the five fields is their sum (R79). -/
theorem commandByte_toNat (r : Reg) (f : CmdFlags) : (commandByte r f).toNat =
    128 + 64 * f.clear.toNat + 32 * f.word.toNat + 16 * f.block.toNat + (addrOf r).toNat := by
  have haddr : (addrOf r).toNat = (addrField (addrOf r)).toNat := by cases r <;> rfl
  rw [commandByte_eq_cmdPattern, cmdPattern_toNat, haddr]

/-- Each flag adds its own weight to the default byte (R79). -/
theorem commandByte_eq_default_or_flags (r : Reg) (f : CmdFlags) : commandByte r f =
    commandByte r defaultFlags ||| (if f.word then 0x20 else 0) ||| (if f.clear then 0x40 else 0) |||
      (if f.block then 0x10 else 0) := by
  have hflags : packFlags f = packFlags defaultFlags ||| (if f.word then 0x20 else 0) |||
      (if f.clear then 0x40 else 0) ||| (if f.block then 0x10 else 0) := by
    rcases f with ⟨_ | _, _ | _, _ | _⟩ <;> rfl
  rw [commandByte, hflags, commandByte]
  ac_rfl

/-- BUILDCMD determines its operands: the low nibble names the register, and the flags read back (R79). -/
theorem commandByte_injective {r r' : Reg} {f f' : CmdFlags} (h : commandByte r f = commandByte r' f') :
    r = r' ∧ f = f' := by
  constructor
  · have hreg : some r = some r' := by rw [← regOf_addrField_commandByte r f, h, regOf_addrField_commandByte]
    exact Option.some.inj hreg
  · rw [← flagFields_commandByte r f, h, flagFields_commandByte]

/-- The smallest byte of a register is 0x80 plus its address (R78). -/
theorem commandByte_defaultFlags (r : Reg) : commandByte r defaultFlags = 0x80 + addrOf r := by
  cases r <;> rfl

/-- Settles O4: the byte is the command byte, which carries command-valid, the flags and the address each in its own field. -/
theorem buildcmdPacksAddressAndFlags : Obligations.BuildcmdPacksAddressAndFlags := by
  unfold Obligations.BuildcmdPacksAddressAndFlags
  intro r f
  have haddr : (addrField (commandByte r f)).setWidth 8 = addrOf r :=
    (addrOf_of_regOf (regOf_addrField_commandByte r f)).symm
  have hmin : 0x80 ≤ (commandByte r f).toNat := by
    rw [commandByte_toNat]
    omega
  have hnibble := addrField_commandByte_not_reserved r f
  rw [not_or, not_or] at hnibble
  exact ⟨commandByte r f, exec_buildCmd r f, commandByte_commandValid r f, commandByte_clear r f, commandByte_word r f,
    commandByte_block r f, haddr, hmin, hnibble⟩

/-- Settles O5: sum, OR form, read-back and injectivity, each by its lemma above. -/
theorem buildcmdFieldsAreIndependent : Obligations.BuildcmdFieldsAreIndependent := by
  unfold Obligations.BuildcmdFieldsAreIndependent
  refine ⟨exec_buildCmd, commandByte_toNat, commandByte_eq_default_or_flags, ?_, fun _ _ _ _ => commandByte_injective⟩
  exact fun r f => ⟨commandByte_and_addressMask r f, commandByte_clear r f, commandByte_word r f, commandByte_block r f⟩

/-- R78: with default flags BUILDCMD hands back 0x80 plus the address. -/
theorem exec_buildCmd_defaultFlags (r : Reg) (s : State) :
    exec (.buildCmd r defaultFlags) s = .next { s with results := s.results ++ [.cmd (0x80 + addrOf r)] } := by
  rw [exec_buildCmd, commandByte_defaultFlags]

/-- Settles O6: 0x80 plus the table's address for each of the thirteen identifiers; the word flag alone is `wordFlag`. -/
theorem defaultFlagsGiveThirteenBytes : Obligations.DefaultFlagsGiveThirteenBytes := by
  unfold Obligations.DefaultFlagsGiveThirteenBytes
  intro s
  exact ⟨exec_buildCmd_defaultFlags .control s, exec_buildCmd_defaultFlags .timing s,
    exec_buildCmd_defaultFlags .threshLowLow s, exec_buildCmd_defaultFlags .threshLowHigh s,
    exec_buildCmd_defaultFlags .threshHighLow s, exec_buildCmd_defaultFlags .threshHighHigh s,
    exec_buildCmd_defaultFlags .interrupt s, exec_buildCmd_defaultFlags .crc s, exec_buildCmd_defaultFlags .id s,
    exec_buildCmd_defaultFlags .data0Low s, exec_buildCmd_defaultFlags .data0High s,
    exec_buildCmd_defaultFlags .data1Low s, exec_buildCmd_defaultFlags .data1High s, exec_buildCmd .data0Low wordFlag s⟩

end Sys2Proof.Machine
end

section
/-! The word codec: DECODEWORD is the concatenation of its two bytes and ENCODEWORD cuts a word back into them. -/

namespace Sys2Proof.Machine

/-! ## What the two operations hand back -/

/-- R81: DECODEWORD hands back the joined word. -/
theorem exec_decodeWord (lo hi : Byte) (s : State) :
    exec (.decodeWord lo hi) s = .next { s with results := s.results ++ [.word (joinBytes lo hi)] } := rfl

/-- R82: ENCODEWORD hands back the word's two bytes, the low one first. -/
theorem exec_encodeWord (w : Word) (s : State) :
    exec (.encodeWord w) s = .next { s with results := s.results ++ [.bytePair (lowByte w) (highByte w)] } := rfl

/-! ## The joined word -/

/-- R81's `{hi, lo}`: the shift and the OR put the two bytes side by side. -/
theorem joinBytes_eq_append (lo hi : Byte) : joinBytes lo hi = hi ++ lo := by
  apply BitVec.eq_of_toNat_eq
  rw [joinBytes_toNat, toNat_append_eq_add]
  omega

@[simp] theorem joinBytes_high (lo hi : Byte) : (joinBytes lo hi).extractLsb' 8 8 = hi := by
  rw [joinBytes_eq_append, BitVec.extractLsb'_append_eq_left]

@[simp] theorem joinBytes_low (lo hi : Byte) : (joinBytes lo hi).extractLsb' 0 8 = lo := by
  rw [joinBytes_eq_append, BitVec.extractLsb'_append_eq_right]

/-- The shifted high byte and the low byte share no bit, so nothing can carry between them (R86). -/
theorem shiftedHigh_and_low (lo hi : Byte) : hi.setWidth 16 <<< 8 &&& lo.setWidth 16 = 0#16 := by
  ext i hi16
  by_cases hlow : i < 8
  · simp [hlow]
  · simp [BitVec.getLsbD_of_ge lo i (by omega)]

theorem joinBytes_eq_add (lo hi : Byte) : joinBytes lo hi = (hi.setWidth 16 <<< 8) + lo.setWidth 16 :=
  (BitVec.add_eq_or_of_and_eq_zero _ _ (shiftedHigh_and_low lo hi)).symm

/-- Joined words are ordered by the high byte first, then by the low byte (R86). -/
theorem joinBytes_toNat_lt_iff (lo1 hi1 lo2 hi2 : Byte) : (joinBytes lo1 hi1).toNat < (joinBytes lo2 hi2).toNat ↔
    hi1.toNat < hi2.toNat ∨ (hi1 = hi2 ∧ lo1.toNat < lo2.toNat) := by
  have hlo1 := lo1.isLt
  have hlo2 := lo2.isLt
  rw [joinBytes_toNat, joinBytes_toNat, ← BitVec.toNat_inj]
  omega

/-! ## Cutting undoes joining (R83) -/

@[simp] theorem lowByte_joinBytes (lo hi : Byte) : lowByte (joinBytes lo hi) = lo := by
  have hlo := lo.isLt
  apply BitVec.eq_of_toNat_eq
  rw [lowByte_toNat, joinBytes_toNat]
  omega

@[simp] theorem highByte_joinBytes (lo hi : Byte) : highByte (joinBytes lo hi) = hi := by
  have hlo := lo.isLt
  apply BitVec.eq_of_toNat_eq
  rw [highByte_toNat, joinBytes_toNat]
  omega

@[simp] theorem joinBytes_lowByte_highByte (w : Word) : joinBytes (lowByte w) (highByte w) = w := by
  apply BitVec.eq_of_toNat_eq
  rw [joinBytes_toNat, lowByte_toNat, highByte_toNat]
  omega

/-! ## The statements -/

/-- Settles O9: the word is the concatenation of the two bytes, so its value and both its bytes are known. -/
theorem decodewordJoinsLowByteFirst : Obligations.DecodewordJoinsLowByteFirst := by
  unfold Obligations.DecodewordJoinsLowByteFirst
  exact fun lo hi => ⟨joinBytes lo hi, exec_decodeWord lo hi, joinBytes_toNat lo hi, joinBytes_high lo hi,
    joinBytes_low lo hi⟩

/-- Settles O11: cutting a word and joining its bytes gives the word, and joining two bytes and cutting gives the bytes. -/
theorem wordCodecRoundTripBothWays : Obligations.WordCodecRoundTripBothWays := by
  unfold Obligations.WordCodecRoundTripBothWays
  constructor
  · intro w
    refine ⟨lowByte w, highByte w, fun s => ⟨exec_encodeWord w s, ?_⟩⟩
    rw [exec_decodeWord, joinBytes_lowByte_highByte]
  · intro lo hi
    refine ⟨joinBytes lo hi, fun s => ⟨exec_decodeWord lo hi s, ?_⟩⟩
    rw [exec_encodeWord, lowByte_joinBytes, highByte_joinBytes]

/-- Settles O12: the function is `joinBytes`, whose definition is the OR form; the sum form holds because the two bytes share
no bit. -/
theorem decodewordOrderAndForms : Obligations.DecodewordOrderAndForms := by
  unfold Obligations.DecodewordOrderAndForms
  refine ⟨joinBytes, exec_decodeWord, fun lo hi => ?_, joinBytes_toNat_lt_iff⟩
  exact ⟨joinBytes_high lo hi, joinBytes_toNat lo hi, rfl, joinBytes_eq_add lo hi⟩

end Sys2Proof.Machine
end

section
/-! ENCTIMING as a function of its two settings: its six bytes, and the two codes read back from a byte. -/

namespace Sys2Proof.Machine

/-- R87: ENCTIMING hands back the timing byte. -/
theorem exec_encTiming (i : Integ) (g : Gain) (s : State) :
    exec (.encTiming i g) s = .next { s with results := s.results ++ [.timing (timingByte i g)] } := rfl

/-! ## The two codes read back (R91) -/

@[simp] theorem timingByte_integField (i : Integ) (g : Gain) : (timingByte i g).extractLsb' 0 2 = integCode i := by
  rw [timingByte_eq_append, BitVec.extractLsb'_append_eq_right]

@[simp] theorem timingByte_gainField (i : Integ) (g : Gain) : (timingByte i g).extractLsb' 4 1 = gainCode g := by
  rw [timingByte_eq_append, BitVec.extractLsb'_append_eq_of_le (by decide),
    BitVec.extractLsb'_append_eq_of_le (by decide), BitVec.extractLsb'_append_eq_right]

theorem integCode_injective : Function.Injective integCode := by
  intro i i' h
  have hsetting : some i = some i' := by rw [← integOf_integCode i, h, integOf_integCode]
  exact Option.some.inj hsetting

theorem gainCode_injective : Function.Injective gainCode :=
  Function.LeftInverse.injective gainOf_gainCode

/-- Each setting is read back from its own field, so the byte determines both (R91). -/
theorem timingByte_injective {i i' : Integ} {g g' : Gain} (h : timingByte i g = timingByte i' g') : i = i' ∧ g = g' := by
  constructor
  · apply integCode_injective
    rw [← timingByte_integField i g, h, timingByte_integField]
  · apply gainCode_injective
    rw [← timingByte_gainField i g, h, timingByte_gainField]

/-- Settles O13: the six bytes are the timing bytes of the six pairs of settings; a byte handed back is the timing byte, which
is injective because both codes are read back from it. -/
theorem enctimingCompleteFunction : Obligations.EnctimingCompleteFunction := by
  unfold Obligations.EnctimingCompleteFunction
  simp only [exec_encTiming_iff]
  refine ⟨fun s => ?_, ?_, ?_⟩
  · exact ⟨exec_encTiming .ms13 .low s, exec_encTiming .ms101 .low s, exec_encTiming .ms402 .low s,
      exec_encTiming .ms13 .high s, exec_encTiming .ms101 .high s, exec_encTiming .ms402 .high s⟩
  · rintro i g i' g' _ rfl h
    exact timingByte_injective h.symm
  · rintro i g _ rfl
    exact ⟨timingByte_integField i g, timingByte_gainField i g⟩

end Sys2Proof.Machine
end

section
/-! The handle operations on the bus: each is one write or one read at its handle's address, so each issues one transaction,
and a bus error becomes the result as it is. -/

namespace Sys2Proof.Machine

/-! ## A failed outcome is the result (R102) -/

theorem writeOperation_results_of_err {a : BusAddr} {bytes : List Byte} {s : State} {e : BusError}
    (he : busReplyOf s = .err e) : (writeOperation a bytes s).results = s.results ++ [.busError e] := by
  obtain ⟨-, -, ⟨_, hok, -⟩ | ⟨e', herr, hresults⟩⟩ := writeOperation_spec a bytes s
  · cases hok.symm.trans he
  · cases herr.symm.trans he
    exact hresults

theorem readOperation_results_of_err {a : BusAddr} {low : Reg} {s : State} {e : BusError}
    (he : busReplyOf s = .err e) : (readOperation a low s).results = s.results ++ [.busError e] := by
  obtain ⟨-, -, ⟨_, hok, -⟩ | ⟨e', herr, hresults⟩⟩ := readOperation_spec a low s
  · cases hok.symm.trans he
  · cases herr.symm.trans he
    exact hresults

/-- A construction whose power-on write fails hands the error back and makes no handle. -/
theorem constructAt_powersOn_of_err {a : BusAddr} {s : State} {e : BusError} (he : busReplyOf s = .err e) :
    (constructAt true a s).results = s.results ++ [.constructFailed e] ∧ (constructAt true a s).handles = s.handles := by
  obtain ⟨-, -, ⟨_, hok, -, -⟩ | ⟨e', herr, hhandles, hresults⟩⟩ := constructAt_powersOn_spec a s
  · cases hok.symm.trans he
  · cases herr.symm.trans he
    exact ⟨hresults, hhandles⟩

/-! ## The five operations (R97 to R101) -/

/-- Each of the five operations is one write or one channel read, with the same bytes in every state, at the address of its
handle. -/
theorem execEnv_of_transacts {op : EnvOp} {h : Nat} (htransacts : transacts op = true) (hhandle : handleOf op = some h) :
    (∃ bytes, ∀ (s : State) (a : BusAddr), s.handles[h]? = some (some a) →
      execEnv op s = .next (writeOperation a bytes s)) ∨
    ∃ low, ∀ (s : State) (a : BusAddr), s.handles[h]? = some (some a) →
      execEnv op s = .next (readOperation a low s) := by
  cases op with
  | powerOn => cases hhandle; exact .inl ⟨powerOnBytes, fun _ _ => onHandle_of_handle⟩
  | powerOff => cases hhandle; exact .inl ⟨powerOffBytes, fun _ _ => onHandle_of_handle⟩
  | readVisibleAndIrRaw => cases hhandle; exact .inr ⟨.data0Low, fun _ _ => onHandle_of_handle⟩
  | readIrRaw => cases hhandle; exact .inr ⟨.data1Low, fun _ _ => onHandle_of_handle⟩
  | configureTimingAndGain _ i g => cases hhandle; exact .inl ⟨configureBytes i g, fun _ _ => onHandle_of_handle⟩
  | construct => cases htransacts
  | dropHandle => cases htransacts
  | devicePowerDown => cases htransacts
  | devicePowerUp => cases htransacts

/-- What a handle operation on the bus does whichever one it is: it completes after one transaction at its handle's address,
keeps the handles, and hands back a bus error as it is (R102, R103). -/
theorem execEnv_transacts_spec {op : EnvOp} {h : Nat} {a : BusAddr} {s : State} (htransacts : transacts op = true)
    (hhandle : handleOf op = some h) (ha : s.handles[h]? = some (some a)) :
    ∃ t c, execEnv op s = .next t ∧ SameButBus a s t ∧ t.busTrace = s.busTrace ++ [c] ∧ busCallAddr c = a ∧
      ∀ e, busReplyOf s = .err e → t.results = s.results ++ [.busError e] := by
  obtain ⟨bytes, hrun⟩ | ⟨low, hrun⟩ := execEnv_of_transacts htransacts hhandle
  · obtain ⟨hsame, htrace, -⟩ := writeOperation_spec a bytes s
    exact ⟨_, _, hrun s a ha, hsame, htrace, rfl, fun _ => writeOperation_results_of_err⟩
  · obtain ⟨hsame, htrace, -⟩ := readOperation_spec a low s
    exact ⟨_, _, hrun s a ha, hsame, htrace, rfl, fun _ => readOperation_results_of_err⟩

/-- Settles O39: the failed operation keeps the handles, so it completes again in the state it leaves; the failed power-on
write of a construction is its only transaction, and no handle is added. -/
theorem busErrorIsSurfacedVerbatim : Obligations.BusErrorIsSurfacedVerbatim := by
  unfold Obligations.BusErrorIsSurfacedVerbatim
  constructor
  · intro s op h a e htransacts hhandle ha he
    obtain ⟨t, c, hrun, hsame, htrace, -, hresults⟩ := execEnv_transacts_spec htransacts hhandle ha
    have hat : t.handles[h]? = some (some a) := by rw [hsame.handles, ha]
    obtain ⟨t', -, hagain, -⟩ := execEnv_transacts_spec htransacts hhandle hat
    exact ⟨t, c, hrun, hresults e he, hsame.handles, htrace, t', hagain⟩
  · intro s a e he
    obtain ⟨-, htrace, -⟩ := constructAt_powersOn_spec a s
    obtain ⟨hresults, hhandles⟩ := constructAt_powersOn_of_err (a := a) he
    exact ⟨constructAt true a s, _, execConstruct_of_constructsAt (.inl rfl) true s, hresults, hhandles, htrace⟩

/-- Settles O40: the operation's one transaction is a write or a read at the handle's address. -/
theorem oneTransactionPerOperation : Obligations.OneTransactionPerOperation := by
  unfold Obligations.OneTransactionPerOperation
  intro s op h a htransacts hhandle ha
  obtain ⟨t, c, hrun, -, htrace, haddr, -⟩ := execEnv_transacts_spec htransacts hhandle ha
  exact ⟨t, c, hrun, htrace, haddr⟩

end Sys2Proof.Machine
end

section
/-! What a caller loses and what the world keeps when a handle is dropped (spec/70_reset_and_hazards.md R128). -/

namespace Sys2Proof.Machine

section ForgetHandle
variable (h : Nat) (s : State)

/-! ## Forgetting a handle: its frame and its place -/

@[simp] theorem forgetHandle_busTrace : (forgetHandle h s).busTrace = s.busTrace := rfl
@[simp] theorem forgetHandle_bank : (forgetHandle h s).bank = s.bank := rfl
@[simp] theorem forgetHandle_busReplies : (forgetHandle h s).busReplies = s.busReplies := rfl
@[simp] theorem forgetHandle_handles : (forgetHandle h s).handles = s.handles.set h none := rfl

end ForgetHandle

/-- The place of a forgotten handle stays in the list and holds no address. -/
theorem forgetHandle_handles_getElem? {h : Nat} {s : State} {a : BusAddr} (ha : s.handles[h]? = some (some a)) :
    (forgetHandle h s).handles[h]? = some none := by
  obtain ⟨hlt, -⟩ := List.getElem?_eq_some_iff.mp ha
  rw [forgetHandle_handles, List.getElem?_set_self hlt]

/-- Dropping an existing handle completes, and all it does is forget the handle. -/
theorem execEnv_dropHandle_of_handle {h : Nat} {s : State} {a : BusAddr} (ha : s.handles[h]? = some (some a)) :
    execEnv (.dropHandle h) s = .next (forgetHandle h s) :=
  onHandle_of_handle ha

/-- Settles O47: the drop only forgets the handle, whose place is then empty; trace, bank and outcomes are in the frame. -/
theorem droppedHandleSendsNothing : Obligations.DroppedHandleSendsNothing := by
  unfold Obligations.DroppedHandleSendsNothing
  intro s h a ha
  exact ⟨forgetHandle h s, execEnv_dropHandle_of_handle ha, forgetHandle_busTrace h s, forgetHandle_bank h s,
    forgetHandle_busReplies h s, forgetHandle_handles_getElem? ha⟩

end Sys2Proof.Machine
end

section
/-! Decoding and encoding undo each other: every row decoder reads the whole word, so what it answers encodes back to it. -/

namespace Sys2Proof.Machine

/-! ## A byte is its fields -/

/-- A byte is its top bit, its flag fields and its address field (R41). -/
theorem commandFields_append (c : Byte) : BitVec.ofBool (c.getLsbD 7) ++ BitVec.ofBool (c.getLsbD 6) ++
    BitVec.ofBool (c.getLsbD 5) ++ BitVec.ofBool (c.getLsbD 4) ++ addrField c = c := by
  revert c
  decide

/-- A byte with command-valid set is the pattern `1cwbaaaa` of its fields (R41). -/
theorem cmdPattern_fields {c : Byte} (hvalid : c.getLsbD 7 = true) : cmdPattern (flagFields c) (addrField c) = c := by
  have hfields := commandFields_append c
  rw [hvalid] at hfields
  exact hfields

/-- A byte with command-valid clear is the pattern `0xxxxxxx` of its seven other bits (R46). -/
theorem notCmdPattern_fields {c : Byte} (hvalid : c.getLsbD 7 = false) : (0#1 ++ c.extractLsb' 0 7 : Byte) = c := by
  have htop : c.extractLsb' 7 1 = 0#1 := by
    ext i hi
    obtain rfl : i = 0 := by omega
    simpa using hvalid
  have hwhole : c.extractLsb' 7 1 ++ c.extractLsb' 0 7 = c.extractLsb' 0 8 :=
    BitVec.extractLsb'_append_extractLsb'_eq_extractLsb' rfl
  rw [← htop, hwhole, BitVec.extractLsb'_eq_self]

/-- A byte with a zero high nibble is the pattern `0000aaaa` of its address field (R40). -/
theorem addrPattern_fields {b : Byte} (hhigh : b.extractLsb' 4 4 = 0) : (0#4 ++ addrField b : Byte) = b := by
  have hwhole : b.extractLsb' 4 4 ++ addrField b = b.extractLsb' 0 8 :=
    BitVec.extractLsb'_append_extractLsb'_eq_extractLsb' rfl
  rw [hhigh, BitVec.extractLsb'_eq_self] at hwhole
  exact hwhole

/-- The register an address names has that address. -/
theorem addrField_addrOf_of_regOf {a : BitVec 4} {r : Reg} (h : regOf a = some r) : addrField (addrOf r) = a := by
  rw [addrOf_of_regOf h, addrField, BitVec.extractLsb'_setWidth_of_le (by decide), BitVec.extractLsb'_eq_self]

/-! ## What each row decoder answers encodes back to its byte -/

/-- A valid row's word is the pattern with its register's address. -/
theorem encode_cmdRow (r : Reg) (f : CmdFlags) :
    encode (cmdRow r f) = (.cmdByte, [cmdPattern f (addrField (addrOf r))]) := by
  cases r <;> rfl

/-- The rows of the bytes with command-valid set: the row of the register the address names, or the row of a gap (R47). -/
theorem encode_decodeCmdByte (c : Byte) : encode (decodeCmdByte c) = (.cmdByte, [c]) := by
  unfold decodeCmdByte
  split
  next hvalid =>
    have hbyte := cmdPattern_fields hvalid
    split
    next r hr => rw [encode_cmdRow, addrField_addrOf_of_regOf hr, hbyte]
    next hnone =>
      obtain h7 | h9 | hB := (regOf_eq_none_iff _).1 hnone
      · rw [if_pos h7, encode, ← h7, hbyte]
      · rw [if_neg (by simp [h9]), if_pos h9, encode, ← h9, hbyte]
      · rw [if_neg (by simp [hB]), if_neg (by simp [hB]), encode, ← hB, hbyte]
  next hvalid => rw [encode, notCmdPattern_fields (Bool.eq_false_of_not_eq_true hvalid)]

theorem encode_of_decodeAddrOf {b : Byte} {i : Instr} (h : decodeAddrOf b = .ok i) : encode i = (.addrOf, [b]) := by
  unfold decodeAddrOf at h
  split at h
  next hhigh =>
    split at h
    next r hr =>
      cases h
      rw [encode, addrField_addrOf_of_regOf hr, addrPattern_fields hhigh]
    next => cases h
  next => cases h

theorem encode_of_decodeBuildCmd {b : Byte} {i : Instr} (h : decodeBuildCmd b = .ok i) : encode i = (.buildCmd, [b]) := by
  unfold decodeBuildCmd at h
  split at h
  next hvalid =>
    split at h
    next r hr =>
      cases h
      rw [encode, addrField_addrOf_of_regOf hr, cmdPattern_fields hvalid]
    next => cases h
  next => cases h

theorem encode_of_decodeEncTiming {b : Byte} {i : Instr} (h : decodeEncTiming b = .ok i) :
    encode i = (.encTiming, [b]) := by
  obtain ⟨t, g, hbyte, hok⟩ | herr := decodeEncTiming_cases b
  · cases hok.symm.trans h
    rw [← hbyte, timingByte_eq_append]
    rfl
  · cases herr.symm.trans h

/-- Two bytes joined to a word are cut again into the same bytes (R44). -/
theorem encode_encodeWord_append (lo hi : Byte) : encode (.encodeWord (hi ++ lo)) = (.encodeWord, [lo, hi]) := by
  rw [encode, BitVec.extractLsb'_append_eq_right, BitVec.extractLsb'_append_eq_left]

/-- Settles O24: the only words that decode have their function's length, and what the function's row decoder answers encodes
back to the word. -/
theorem encodeOfDecodedWord : Obligations.EncodeOfDecodedWord := by
  unfold Obligations.EncodeOfDecodedWord
  intro fn bytes i h
  unfold decode at h
  split at h
  next c => cases h; exact encode_decodeCmdByte c
  next b => exact encode_of_decodeAddrOf h
  next b => exact encode_of_decodeBuildCmd h
  next lo hi => cases h; rfl
  next lo hi => cases h; exact encode_encodeWord_append lo hi
  next b => exact encode_of_decodeEncTiming h
  next => cases h

/-- Settles O23: each of the 22 rows by its round-trip lemma. -/
theorem decodeOfEncodedWord : Obligations.DecodeOfEncodedWord := by
  unfold Obligations.DecodeOfEncodedWord
  intro i
  cases i with
  | cmdControl f => exact Laws.WordRoundTrip.cmdControl f
  | cmdTiming f => exact Laws.WordRoundTrip.cmdTiming f
  | cmdThreshLowLow f => exact Laws.WordRoundTrip.cmdThreshLowLow f
  | cmdThreshLowHigh f => exact Laws.WordRoundTrip.cmdThreshLowHigh f
  | cmdThreshHighLow f => exact Laws.WordRoundTrip.cmdThreshHighLow f
  | cmdThreshHighHigh f => exact Laws.WordRoundTrip.cmdThreshHighHigh f
  | cmdInterrupt f => exact Laws.WordRoundTrip.cmdInterrupt f
  | cmdCrc f => exact Laws.WordRoundTrip.cmdCrc f
  | cmdId f => exact Laws.WordRoundTrip.cmdId f
  | cmdData0Low f => exact Laws.WordRoundTrip.cmdData0Low f
  | cmdData0High f => exact Laws.WordRoundTrip.cmdData0High f
  | cmdData1Low f => exact Laws.WordRoundTrip.cmdData1Low f
  | cmdData1High f => exact Laws.WordRoundTrip.cmdData1High f
  | cmdReserved7 f => exact Laws.WordRoundTrip.cmdReserved7 f
  | cmdReserved9 f => exact Laws.WordRoundTrip.cmdReserved9 f
  | cmdReservedB f => exact Laws.WordRoundTrip.cmdReservedB f
  | notCmd low => exact Laws.WordRoundTrip.notCmd low
  | addrOf r => exact Laws.WordRoundTrip.addrOf r
  | buildCmd r f => exact Laws.WordRoundTrip.buildCmd r f
  | decodeWord lo hi => exact Laws.WordRoundTrip.decodeWord lo hi
  | encodeWord w => exact Laws.WordRoundTrip.encodeWord w
  | encTiming t g => exact Laws.WordRoundTrip.encTiming t g

end Sys2Proof.Machine
end

section
/-! The command-byte rows: what the derived decoder `decode_cmd` reports of each byte, and that BUILDCMD is its inverse. -/

namespace Sys2Proof.Machine

/-! ## The table of addresses and the word's bytes -/

/-- Settles O3: `reg_of` undoes the table on its thirteen addresses and names nothing at the three gaps. -/
theorem regOfFullTable : Obligations.RegOfFullTable := by
  unfold Obligations.RegOfFullTable
  exact ⟨regOf_addrOf .control, regOf_addrOf .timing, regOf_addrOf .threshLowLow, regOf_addrOf .threshLowHigh,
    regOf_addrOf .threshHighLow, regOf_addrOf .threshHighHigh, regOf_addrOf .interrupt,
    (regOf_eq_none_iff 0x7).2 (.inl rfl), regOf_addrOf .crc, (regOf_eq_none_iff 0x9).2 (.inr (.inl rfl)),
    regOf_addrOf .id, (regOf_eq_none_iff 0xB).2 (.inr (.inr rfl)), regOf_addrOf .data0Low, regOf_addrOf .data0High,
    regOf_addrOf .data1Low, regOf_addrOf .data1High⟩

/-- Settles O8: the table's address and the eight values of BUILDCMD's formula, by evaluation for each register. -/
theorem controlTimingDataBytes : Obligations.ControlTimingDataBytes := by
  unfold Obligations.ControlTimingDataBytes
  exact ⟨hasCommandBytes_of_eq rfl rfl, hasCommandBytes_of_eq rfl rfl, hasCommandBytes_of_eq rfl rfl,
    hasCommandBytes_of_eq rfl rfl, hasCommandBytes_of_eq rfl rfl, hasCommandBytes_of_eq rfl rfl⟩

theorem lowByte_eq_extractLsb' (w : Word) : lowByte w = w.extractLsb' 0 8 := by
  rw [← joinBytes_low (lowByte w) (highByte w), joinBytes_lowByte_highByte]

theorem highByte_eq_extractLsb' (w : Word) : highByte w = w.extractLsb' 8 8 := by
  rw [← joinBytes_high (lowByte w) (highByte w), joinBytes_lowByte_highByte]

/-- Settles O10: the two bytes handed back are the word's fields, since joining them gives the word. -/
theorem encodewordSplitsLowByteFirst : Obligations.EncodewordSplitsLowByteFirst := by
  unfold Obligations.EncodewordSplitsLowByteFirst
  exact fun w => ⟨lowByte w, highByte w, exec_encodeWord w, lowByte_eq_extractLsb' w, highByte_eq_extractLsb' w,
    lowByte_toNat w, highByte_toNat w⟩

/-! ## What a row reports -/

/-- A valid row reports its register and the flags (R50). -/
theorem exec_cmdRow (r : Reg) (f : CmdFlags) (s : State) :
    exec (cmdRow r f) s = .next { s with results := s.results ++ [.report (.command r f)] } := by
  cases r <;> rfl

/-- Settles O15: each of the thirteen rows is the row of its register. -/
theorem commandRowsReportTheirRegister : Obligations.CommandRowsReportTheirRegister := by
  unfold Obligations.CommandRowsReportTheirRegister
  intro f s
  exact ⟨exec_cmdRow .control f s, exec_cmdRow .timing f s, exec_cmdRow .threshLowLow f s,
    exec_cmdRow .threshLowHigh f s, exec_cmdRow .threshHighLow f s, exec_cmdRow .threshHighHigh f s,
    exec_cmdRow .interrupt f s, exec_cmdRow .crc f s, exec_cmdRow .id f s, exec_cmdRow .data0Low f s,
    exec_cmdRow .data0High f s, exec_cmdRow .data1Low f s, exec_cmdRow .data1High f s⟩

/-- Settles O16: the four rows without a register hand back their reports. -/
theorem reservedRowsReportNoRegister : Obligations.ReservedRowsReportNoRegister := by
  unfold Obligations.ReservedRowsReportNoRegister
  exact fun _ _ _ => ⟨rfl, rfl, rfl, rfl⟩

/-! ## `decode_cmd` (R50) -/

theorem decodeCmd_of_notValid {c : Byte} (h : c.getLsbD 7 = false) : decodeCmd c = .notCommand := by
  rw [decodeCmd, if_pos h]

theorem decodeCmd_of_regOf {c : Byte} {r : Reg} (hvalid : c.getLsbD 7 = true) (hr : regOf (addrField c) = some r) :
    decodeCmd c = .command r (flagFields c) := by
  rw [addrField] at hr
  simp [decodeCmd, hvalid, hr, flagsOf, flagFields]

theorem decodeCmd_of_reserved {c : Byte} (hvalid : c.getLsbD 7 = true) (hnone : regOf (addrField c) = none) :
    decodeCmd c = .reservedAddress (addrField c) (flagFields c) := by
  rw [addrField] at hnone
  simp [decodeCmd, hvalid, hnone, flagsOf, flagFields, addrField]

/-- What the decoder of the command-byte rows makes of a byte is run to `decode_cmd`'s report of that byte. -/
theorem exec_decodeCmdByte (c : Byte) (s : State) :
    exec (decodeCmdByte c) s = answer (.report (decodeCmd c)) s := by
  unfold decodeCmdByte
  split
  next hvalid =>
    split
    next r hr => rw [exec_cmdRow, decodeCmd_of_regOf hvalid hr]; rfl
    next hnone =>
      rw [decodeCmd_of_reserved hvalid hnone]
      obtain h7 | h9 | hB := (regOf_eq_none_iff _).1 hnone
      · rw [if_pos h7, h7]; rfl
      · rw [if_neg (by simp [h9]), if_pos h9, h9]; rfl
      · rw [if_neg (by simp [hB]), if_neg (by simp [hB]), hB]; rfl
  next hvalid => rw [decodeCmd_of_notValid (Bool.eq_false_of_not_eq_true hvalid)]; rfl

/-- A byte's row completes with this report and no other. -/
theorem exec_decodeCmdByte_iff (c : Byte) (d : CmdReport) :
    (∀ s, exec (decodeCmdByte c) s = .next { s with results := s.results ++ [.report d] }) ↔ decodeCmd c = d := by
  simp only [exec_decodeCmdByte, answer_eq_next_iff, Result.report.injEq]
  exact ⟨fun h => h State.reset, fun h _ => h⟩

/-- `decode_cmd` reads back the operands of BUILDCMD's byte (R50). -/
@[simp] theorem decodeCmd_commandByte (r : Reg) (f : CmdFlags) : decodeCmd (commandByte r f) = .command r f := by
  rw [decodeCmd_of_regOf (commandByte_commandValid r f) (regOf_addrField_commandByte r f), flagFields_commandByte]

/-- A byte reported as a command is BUILDCMD's byte for what is reported (R50). -/
theorem commandByte_of_decodeCmd {c : Byte} {r : Reg} {f : CmdFlags} (h : decodeCmd c = .command r f) :
    commandByte r f = c := by
  cases hvalid : c.getLsbD 7 with
  | false => cases (decodeCmd_of_notValid hvalid).symm.trans h
  | true =>
    cases hreg : regOf (addrField c) with
    | none => cases (decodeCmd_of_reserved hvalid hreg).symm.trans h
    | some r' =>
      cases (decodeCmd_of_regOf hvalid hreg).symm.trans h
      rw [commandByte_eq_cmdPattern, addrField_addrOf_of_regOf hreg, cmdPattern_fields hvalid]

/-- Settles O17: the three classes are the three cases of `decode_cmd`, and BUILDCMD and it undo each other. -/
theorem decodeCmdReportsEveryByte : Obligations.DecodeCmdReportsEveryByte := by
  unfold Obligations.DecodeCmdReportsEveryByte
  refine ⟨fun c s hvalid => ?_, fun c s hvalid hgap => ?_, fun c s r hvalid hr => ?_, fun r f s => ?_, fun x r f h s => ?_⟩
  · exact (exec_decodeCmdByte_iff c _).2 (decodeCmd_of_notValid hvalid) s
  · exact (exec_decodeCmdByte_iff c _).2 (decodeCmd_of_reserved hvalid ((regOf_eq_none_iff _).2 hgap)) s
  · have hreg : regOf (addrField c) = some r := by
      rw [← regOf_addrOf r, hr, BitVec.extractLsb'_setWidth_of_le (by decide), BitVec.extractLsb'_eq_self, addrField]
    exact (exec_decodeCmdByte_iff c _).2 (decodeCmd_of_regOf hvalid hreg) s
  · exact (exec_decodeCmdByte_iff _ _).2 (decodeCmd_commandByte r f) s
  · rw [exec_buildCmd, commandByte_of_decodeCmd ((exec_decodeCmdByte_iff x _).1 h)]

/-! ## Bytes that BUILDCMD never hands back -/

/-- BUILDCMD hands back only bytes that `decode_cmd` reports as commands. -/
theorem exec_buildCmd_ne {c : Byte} (h : ∀ r f, decodeCmd c ≠ .command r f) (r : Reg) (f : CmdFlags) (s : State) :
    exec (.buildCmd r f) s ≠ .next { s with results := s.results ++ [.cmd c] } := by
  intro heq
  have hbyte : commandByte r f = c := Result.cmd.inj ((answer_eq_next_iff _ _ s).1 heq)
  exact h r f (hbyte ▸ decodeCmd_commandByte r f)

/-- The 24 bytes with command-valid set and one of the three reserved addresses (R45). -/
theorem reserved_of_mem {c : Byte} (hc : c ∈ ([0x87, 0x89, 0x8B, 0x97, 0x99, 0x9B, 0xA7, 0xA9, 0xAB, 0xB7, 0xB9, 0xBB,
    0xC7, 0xC9, 0xCB, 0xD7, 0xD9, 0xDB, 0xE7, 0xE9, 0xEB, 0xF7, 0xF9, 0xFB] : List Byte)) :
    c.getLsbD 7 = true ∧ (addrField c = 0x7 ∨ addrField c = 0x9 ∨ addrField c = 0xB) := by
  revert c
  decide

/-- Settles O18: such a byte is in `decode_cmd`'s reserved case, so it is no byte of BUILDCMD. -/
theorem reservedAddressBytes : Obligations.ReservedAddressBytes := by
  unfold Obligations.ReservedAddressBytes
  intro c hc
  obtain ⟨hvalid, hgap⟩ := reserved_of_mem hc
  have hreport := decodeCmd_of_reserved hvalid ((regOf_eq_none_iff _).2 hgap)
  exact ⟨⟨addrField c, flagFields c, hgap, rfl, (exec_decodeCmdByte_iff c _).2 hreport⟩,
    exec_buildCmd_ne fun _ _ => by simp [hreport]⟩

theorem getLsbD_seven_eq_false_iff (c : Byte) : c.getLsbD 7 = false ↔ c.toNat < 0x80 := by
  revert c
  decide

/-- Settles O19: below 0x80 command-valid is clear, so `decode_cmd` reports no command and BUILDCMD never hands it back. -/
theorem bytesWithoutCommandValid : Obligations.BytesWithoutCommandValid := by
  unfold Obligations.BytesWithoutCommandValid
  intro c hc
  have hreport := decodeCmd_of_notValid ((getLsbD_seven_eq_false_iff c).2 hc)
  exact ⟨(exec_decodeCmdByte_iff c _).2 hreport, exec_buildCmd_ne fun _ _ => by simp [hreport]⟩

/-! ## The rows of the table -/

/-- Settles O25: each word is the encoding of its row, and decoding undoes encoding. -/
theorem tableWordsDecodeToTheirRows : Obligations.TableWordsDecodeToTheirRows := by
  unfold Obligations.TableWordsDecodeToTheirRows
  exact ⟨decodeOfEncodedWord (.cmdData0Low ⟨false, true, false⟩), decodeOfEncodedWord (.cmdId ⟨true, false, false⟩),
    decodeOfEncodedWord (.cmdReserved9 ⟨false, false, true⟩), decodeOfEncodedWord (.notCmd 0b0101100#7),
    decodeOfEncodedWord (.addrOf .crc), decodeOfEncodedWord (.buildCmd .interrupt ⟨true, false, false⟩),
    decodeOfEncodedWord (.decodeWord 0x34 0x12), decodeOfEncodedWord (.encodeWord 0x1234),
    decodeOfEncodedWord (.encTiming .ms402 .high)⟩

/-- The table against the decoder, byte for byte: one row matches, and it has the mnemonic of the decoded row (R55). -/
theorem commandRows_filter_matches (c : Byte) :
    (commandRows.filter fun row => c &&& row.mask = row.pattern).map CmdRow.mnemonic =
      [mnemonicOf (decodeCmdByte c)] := by
  revert c
  decide

/-- Settles O20: the table against the decoder on each of the 256 bytes, and two counts over them. -/
theorem commandRowsPartitionTheBytes : Obligations.CommandRowsPartitionTheBytes := by
  unfold Obligations.CommandRowsPartitionTheBytes
  exact ⟨commandRows_filter_matches, rfl, rfl⟩

end Sys2Proof.Machine
end

section
/-! Steps: what a step makes of its next input, which inputs it completes on, and a whole program's results. -/

namespace Sys2Proof.Machine

/-! ## Running one input -/

theorem step_of_no_inputs {s : State} (h : s.inputs = []) : step s = .next s := by
  simp [step, runNext, h]

theorem step_of_word {s : State} {fn : CodecFn} {bytes : List Byte} {i : Instr} {rest : List Input}
    (hs : s.inputs = .word fn bytes :: rest) (hi : decode fn bytes = .ok i) :
    step s = exec i { s with inputs := rest } := by
  rw [step_of_inputs hs, runInput, hi, runDecoded]

theorem step_of_ports {s : State} {p : Ports} {i : Instr} {rest : List Input} (hs : s.inputs = .ports p :: rest)
    (hi : decodePorts p = .ok i) : step s = exec i { s with inputs := rest } := by
  rw [step_of_inputs hs, runInput, hi, runDecoded]

theorem step_of_rejected_word {s : State} {fn : CodecFn} {bytes : List Byte} {e : Reject} {rest : List Input}
    (hs : s.inputs = .word fn bytes :: rest) (he : decode fn bytes = .error e) :
    step s = .refused (.rejected e) := by
  rw [step_of_inputs hs, runInput, he, runDecoded]

theorem step_of_rejected_ports {s : State} {p : Ports} {e : Reject} {rest : List Input}
    (hs : s.inputs = .ports p :: rest) (he : decodePorts p = .error e) : step s = .refused (.rejected e) := by
  rw [step_of_inputs hs, runInput, he, runDecoded]

/-- Settles O28: one rule for each kind of presented input. -/
theorem stepRunsTheDecodedInstruction : Obligations.StepRunsTheDecodedInstruction := by
  unfold Obligations.StepRunsTheDecodedInstruction
  exact ⟨fun _ _ _ _ _ => step_of_word, fun _ _ _ _ => step_of_ports, fun _ _ _ _ _ => step_of_rejected_word,
    fun _ _ _ => step_of_inputs⟩

/-- Settles O30: a step looks at the inputs first. -/
theorem nothingPresentedNothingChanges : Obligations.NothingPresentedNothingChanges := by
  unfold Obligations.NothingPresentedNothingChanges
  exact fun _ => step_of_no_inputs

theorem decode_of_decodeTableWord {nbits w : Nat} {i : Instr} (h : decodeTableWord nbits w = some i) :
    decode (tableFn nbits) (tableBytes nbits w) = .ok i := by
  unfold decodeTableWord at h
  split at h
  next hok => cases h; exact hok
  next => cases h

/-- Settles O29: the placed word is the next input, and taking it away leaves the state before. -/
theorem placedTableWordRunsNext : Obligations.PlacedTableWordRunsNext := by
  unfold Obligations.PlacedTableWordRunsNext
  intro s nbits w i h
  exact step_of_word (s := s.withFetchWord nbits w) (rest := s.inputs) rfl (decode_of_decodeTableWord h)

/-! ## Port patterns (R51, R52) -/

/-- The patterns up to 12 name a register, and it is the one with that ordinal (R51). -/
theorem regOfSel_of_le {sel : BitVec 4} (h : sel.toNat ≤ 12) : ∃ r, regOfSel sel = some r ∧ regEnc r = sel := by
  have key : ∀ sel : BitVec 4, sel.toNat ≤ 12 → (regOfSel sel).map regEnc = some sel := by decide
  exact Option.map_eq_some_iff.1 (key sel h)

theorem regOfSel_eq_none {sel : BitVec 4} (h : 13 ≤ sel.toNat) : regOfSel sel = none := by
  revert sel
  decide

/-- The patterns up to 2 name a setting, and it is the one with that code (R88). -/
theorem integOf_of_le {c : BitVec 2} (h : c.toNat ≤ 2) : ∃ i, integOf c = some i ∧ integCode i = c := by
  have key : ∀ c : BitVec 2, c.toNat ≤ 2 → (integOf c).map integCode = some c := by decide
  exact Option.map_eq_some_iff.1 (key c h)

theorem integOf_eq_none {c : BitVec 2} (h : 3 ≤ c.toNat) : integOf c = none := by
  revert c
  decide

/-- A pattern inside the operand domains decodes to the operation whose port values it is. -/
theorem decodePorts_of_wellFormed {p : Ports} (h : p.wellFormed = true) :
    ∃ i, decodePorts p = .ok i ∧ encodePorts i = some p := by
  cases p with
  | addrOf sel =>
    obtain ⟨r, hr, hsel⟩ := regOfSel_of_le (of_decide_eq_true h)
    exact ⟨.addrOf r, by simp [decodePorts, hr], by simp [encodePorts, hsel]⟩
  | buildCmd sel word clear block =>
    obtain ⟨r, hr, hsel⟩ := regOfSel_of_le (of_decide_eq_true h)
    exact ⟨.buildCmd r ⟨clear, word, block⟩, by simp [decodePorts, hr], by simp [encodePorts, hsel]⟩
  | decodeWord lo hi => exact ⟨.decodeWord lo hi, rfl, rfl⟩
  | encodeWord w => exact ⟨.encodeWord w, rfl, rfl⟩
  | encTiming integ gain =>
    obtain ⟨i, hi, hinteg⟩ := integOf_of_le (of_decide_eq_true h)
    exact ⟨.encTiming i (gainOf gain), by simp [decodePorts, hi], by simp [encodePorts, hinteg]⟩

/-- A pattern outside the operand domains is rejected by the name of the port at fault. -/
theorem decodePorts_addrOf_rejected {sel : BitVec 4} (h : 13 ≤ sel.toNat) :
    decodePorts (.addrOf sel) = .error .regSelNamesNoRegister := by
  simp [decodePorts, regOfSel_eq_none h]

theorem decodePorts_buildCmd_rejected {sel : BitVec 4} (h : 13 ≤ sel.toNat) (word clear block : Bool) :
    decodePorts (.buildCmd sel word clear block) = .error .regSelNamesNoRegister := by
  simp [decodePorts, regOfSel_eq_none h]

theorem decodePorts_encTiming_rejected {integ : BitVec 2} (h : 3 ≤ integ.toNat) (gain : BitVec 1) :
    decodePorts (.encTiming integ gain) = .error .integNamesNoSetting := by
  simp [decodePorts, integOf_eq_none h]

/-- Outside the operand domains nothing is decoded. -/
theorem decodePorts_of_not_wellFormed {p : Ports} (h : p.wellFormed ≠ true) : ∃ e, decodePorts p = .error e := by
  cases p with
  | addrOf sel =>
    exact ⟨_, decodePorts_addrOf_rejected (Nat.lt_of_not_le fun hle => h (decide_eq_true hle))⟩
  | buildCmd sel word clear block =>
    exact ⟨_, decodePorts_buildCmd_rejected (Nat.lt_of_not_le fun hle => h (decide_eq_true hle)) word clear block⟩
  | decodeWord => exact absurd rfl h
  | encodeWord => exact absurd rfl h
  | encTiming integ gain =>
    exact ⟨_, decodePorts_encTiming_rejected (Nat.lt_of_not_le fun hle => h (decide_eq_true hle)) gain⟩

/-- Settles O26: `decodePorts` rejects outside the domains and answers the pattern's operation inside them. -/
theorem portPatternsRunOrAreRefused : Obligations.PortPatternsRunOrAreRefused := by
  unfold Obligations.PortPatternsRunOrAreRefused
  refine ⟨fun s sel rest hs hsel => ?_, fun s sel word clear block rest hs hsel => ?_, fun s gain rest hs => ?_,
    fun s p rest hs hp => ?_⟩
  · exact step_of_rejected_ports hs (decodePorts_addrOf_rejected hsel)
  · exact step_of_rejected_ports hs (decodePorts_buildCmd_rejected hsel word clear block)
  · exact step_of_rejected_ports hs (decodePorts_encTiming_rejected (by decide) gain)
  · obtain ⟨i, hi, hports⟩ := decodePorts_of_wellFormed hp
    exact ⟨i, hports, step_of_ports hs hi⟩

/-- The addresses of the registers that `reg_sel` 0 to 12 name, in the listing order (R51; D3). -/
theorem addrOf_regOfSel {n : Nat} (h : n < 13) : (regOfSel (BitVec.ofNat 4 n)).map addrOf =
    ([0x0, 0x1, 0x2, 0x3, 0x4, 0x5, 0x6, 0x8, 0xA, 0xC, 0xD, 0xE, 0xF] : List Byte)[n]? := by
  revert n
  decide

/-- Settles O27: the pattern names the register whose address is the listed one. -/
theorem regSelFollowsListingOrder : Obligations.RegSelFollowsListingOrder := by
  unfold Obligations.RegSelFollowsListingOrder
  intro s n a rest hs hn ha
  obtain ⟨r, hr, rfl⟩ := Option.map_eq_some_iff.1 ((addrOf_regOfSel hn).trans ha)
  have hdecode : decodePorts (.addrOf (BitVec.ofNat 4 n)) = .ok (.addrOf r) := by simp [decodePorts, hr]
  rw [step_of_ports hs hdecode, exec_addrOf]

/-! ## Which inputs a step completes on -/

/-- Running what was decoded completes exactly when something was decoded. -/
theorem runDecoded_next_iff (d : Except Reject Instr) (s : State) :
    (∃ t, runDecoded d s = .next t) ↔ ∃ i, d = .ok i := by
  cases d with
  | error e => exact ⟨fun ⟨_, h⟩ => (nomatch h), fun ⟨_, h⟩ => (nomatch h)⟩
  | ok i =>
    obtain ⟨r, hr⟩ := exec_eq_answer i
    exact ⟨fun _ => ⟨i, rfl⟩, fun _ => ⟨deliver r s, hr s⟩⟩

theorem decodePorts_ok_iff (p : Ports) : (∃ i, decodePorts p = .ok i) ↔ p.wellFormed = true := by
  constructor
  · rintro ⟨i, hi⟩
    by_contra hp
    obtain ⟨e, he⟩ := decodePorts_of_not_wellFormed hp
    cases he.symm.trans hi
  · intro hp
    obtain ⟨i, hi, -⟩ := decodePorts_of_wellFormed hp
    exact ⟨i, hi⟩

/-- The defined addresses are those the check admits (R95). -/
theorem busAddrOf_isSome_iff (v : BitVec 7) :
    (∃ a, busAddrOf v = some a) ↔ (EnvOp.construct (some v)).wellFormed = true := by
  rw [← Option.isSome_iff_exists]
  revert v
  decide

theorem execConstruct_next_iff (powersOn : Bool) (address : Option (BitVec 7)) (s : State) :
    (∃ t, execConstruct powersOn address s = .next t) ↔ (EnvOp.construct address).wellFormed = true := by
  cases address with
  | none => exact ⟨fun _ => rfl, fun _ => ⟨_, rfl⟩⟩
  | some v =>
    rw [← busAddrOf_isSome_iff]
    cases hv : busAddrOf v with
    | none => simp [execConstruct, hv]
    | some a => simp [execConstruct, hv]

theorem onHandle_next_iff (h : Nat) (k : BusAddr → State → State) (s : State) :
    (∃ t, onHandle h k s = .next t) ↔ ∃ a, s.handles[h]? = some (some a) := by
  simp only [onHandle_next]
  exact ⟨fun ⟨_, a, ha, _⟩ => ⟨a, ha⟩, fun ⟨a, ha⟩ => ⟨_, a, ha, rfl⟩⟩

/-- A call on a handle is accepted exactly when the handle exists: its bus address was checked at construction. -/
theorem inputAccepted_env_iff {op : EnvOp} {h : Nat} {s : State} (hwf : op.wellFormed = true)
    (hop : handleOf op = some h) : InputAccepted s (.env op) ↔ ∃ a, s.handles[h]? = some (some a) := by
  simp [InputAccepted, hwf, hop]

/-- An operation of the environment completes exactly when its address is defined and its handle exists. -/
theorem execEnv_next_iff (op : EnvOp) (s : State) : (∃ t, execEnv op s = .next t) ↔ InputAccepted s (.env op) := by
  cases op with
  | construct address =>
    rw [execEnv, execConstruct_next_iff]
    exact ⟨fun h => ⟨h, nofun⟩, fun ⟨h, _⟩ => h⟩
  | powerOn h => exact (onHandle_next_iff _ _ s).trans (inputAccepted_env_iff rfl rfl).symm
  | powerOff h => exact (onHandle_next_iff _ _ s).trans (inputAccepted_env_iff rfl rfl).symm
  | readVisibleAndIrRaw h => exact (onHandle_next_iff _ _ s).trans (inputAccepted_env_iff rfl rfl).symm
  | readIrRaw h => exact (onHandle_next_iff _ _ s).trans (inputAccepted_env_iff rfl rfl).symm
  | configureTimingAndGain h i g => exact (onHandle_next_iff _ _ s).trans (inputAccepted_env_iff rfl rfl).symm
  | dropHandle h => exact (onHandle_next_iff _ _ s).trans (inputAccepted_env_iff rfl rfl).symm
  | devicePowerDown a => exact ⟨fun _ => ⟨rfl, nofun⟩, fun _ => ⟨_, rfl⟩⟩
  | devicePowerUp a => exact ⟨fun _ => ⟨rfl, nofun⟩, fun _ => ⟨_, rfl⟩⟩

/-- One presented input completes exactly when it lies in the domains the spec gives. -/
theorem runInput_next_iff (x : Input) (s : State) : (∃ t, runInput x s = .next t) ↔ InputAccepted s x := by
  cases x with
  | ports p => exact (runDecoded_next_iff _ s).trans (decodePorts_ok_iff p)
  | word fn bytes => exact runDecoded_next_iff _ s
  | env op => exact execEnv_next_iff op s

/-- Whether an input is accepted does not depend on what is presented after it. -/
theorem inputAccepted_with_inputs (s : State) (rest : List Input) (x : Input) :
    InputAccepted { s with inputs := rest } x ↔ InputAccepted s x := by
  cases x <;> rfl

/-- Settles O31: with an input presented the step runs it, and each kind of input completes on its own domain. -/
theorem stepCompletesExactlyOnAcceptedInputs : Obligations.StepCompletesExactlyOnAcceptedInputs := by
  unfold Obligations.StepCompletesExactlyOnAcceptedInputs
  intro s
  cases hs : s.inputs with
  | nil =>
    have haccepted : Accepted s := fun x rest h => nomatch hs.symm.trans h
    exact ⟨fun _ => haccepted, fun _ => ⟨s, step_of_no_inputs hs⟩⟩
  | cons x rest =>
    have haccepted : Accepted s ↔ InputAccepted s x := by
      refine ⟨fun h => h x rest hs, fun h x' rest' hs' => ?_⟩
      obtain ⟨rfl, -⟩ := List.cons.inj (hs.symm.trans hs')
      exact h
    rw [step_of_inputs hs, runInput_next_iff, inputAccepted_with_inputs, haccepted]

/-! ## Whole programs -/

/-- Settles O21: an instruction hands back one result and does nothing else. -/
theorem codecOperationsArePureAndTotal : Obligations.CodecOperationsArePureAndTotal := by
  unfold Obligations.CodecOperationsArePureAndTotal
  exact exec_eq_answer

/-- The inputs that present a program: each instruction's words, to its function. -/
def programInputs (program : List Instr) : List Input :=
  program.map fun i => .word (encode i).1 (encode i).2

/-- The first step of a program runs its first instruction, with the rest of the program still to come. -/
theorem step_programInputs_cons (i : Instr) (program : List Instr) (rest : List Input) (s : State) :
    step { s with inputs := programInputs (i :: program) ++ rest } =
      exec i { s with inputs := programInputs program ++ rest } :=
  step_of_word (s := { s with inputs := programInputs (i :: program) ++ rest }) rfl (decodeOfEncodedWord i)

theorem run_succ_of_step {k : Nat} {s t : State} (h : step s = .next t) : core.run (k + 1) s = core.run k t := by
  have hcore : core.step s = .next t := h
  simp [Host.Core.run, hcore]

/-- A program's results, if `resultOf` gives the result of each instruction in every state. -/
theorem run_programInputs {resultOf : Instr → Result}
    (hresult : ∀ i s, exec i s = .next { s with results := s.results ++ [resultOf i] })
    (program : List Instr) (rest : List Input) (s : State) :
    core.run program.length { s with inputs := programInputs program ++ rest } =
      .next { s with inputs := rest, results := s.results ++ program.map resultOf } := by
  induction program generalizing s with
  | nil => simp [programInputs, Host.Core.run]
  | cons i program ih =>
    have hfirst : step { s with inputs := programInputs (i :: program) ++ rest } =
        .next { s with inputs := programInputs program ++ rest, results := s.results ++ [resultOf i] } :=
      (step_programInputs_cons i program rest s).trans (hresult i _)
    rw [List.length_cons, run_succ_of_step hfirst]
    simpa using ih { s with results := s.results ++ [resultOf i] }

/-- Settles O22: every instruction has one result of its own (O21), and the run is an induction over the program. -/
theorem programGivesEachOperationsOwnResult : Obligations.ProgramGivesEachOperationsOwnResult := by
  unfold Obligations.ProgramGivesEachOperationsOwnResult
  choose resultOf hresult using codecOperationsArePureAndTotal
  exact ⟨resultOf, hresult, run_programInputs hresult⟩

end Sys2Proof.Machine
end

section
/-! The environment: what each operation makes of the device and hands back, what it leaves alone, and the transactions of a
step. -/

namespace Sys2Proof.Machine

/-! ## Reset -/

/-- Settles O32: reset's fields are given, and each peripheral is one just after a power-down. -/
theorem resetLeavesNoHandleAndControlZero : Obligations.ResetLeavesNoHandleAndControlZero := by
  unfold Obligations.ResetLeavesNoHandleAndControlZero
  refine ⟨rfl, rfl, rfl, rfl, fun a => ?_⟩
  cases a <;> rfl

/-- Settles O43: no transaction has been issued. -/
theorem traceLegalAtReset : Obligations.TraceLegalAtReset := by
  unfold Obligations.TraceLegalAtReset
  exact fun _ h => absurd h List.not_mem_nil

/-! ## The transactions of a step -/

/-- Settles O42: a step's new transaction, if it issues one, is legal. -/
theorem everyStepKeepsTraceLegal : Obligations.EveryStepKeepsTraceLegal := by
  unfold Obligations.EveryStepKeepsTraceLegal
  intro s t hs hstep call hcall
  obtain hsame | ⟨issued, hlegal, hgrows⟩ := step_traceGrowsLegally hstep
  · exact hs call (hsame ▸ hcall)
  · rw [hgrows, List.mem_append, List.mem_singleton] at hcall
    obtain hold | rfl := hcall
    · exact hs call hold
    · exact hlegal

/-- A transaction is a two-byte write opened with default flags, or a two-byte read opened with the word flag alone. -/
theorem form_of_legal {call : BusCall} (h : LegalBusCall call) :
    (∃ a r d, call = .write a [commandByte r defaultFlags, d]) ∨
      ∃ a r, call = .writeRead a [commandByte r wordFlag] 2 := by
  obtain ⟨a, hmem⟩ := h
  simp only [legalBusCalls_eq, List.mem_append, List.mem_cons, List.not_mem_nil, or_false] at hmem
  obtain (rfl | rfl | rfl | rfl) | htiming := hmem
  · exact .inl ⟨a, .control, 0x03, rfl⟩
  · exact .inl ⟨a, .control, 0x00, rfl⟩
  · exact .inr ⟨a, .data0Low, rfl⟩
  · exact .inr ⟨a, .data1Low, rfl⟩
  · obtain ⟨d, -, rfl⟩ := List.mem_map.1 htiming
    exact .inl ⟨a, .timing, d, rfl⟩

/-- The command byte of a transaction: command-valid is set, clear and block are not, word tells a read from a write. -/
theorem flags_of_legal {call : BusCall} (h : LegalBusCall call) : ∃ c, (busCallBytes call).head? = some c ∧
    c.getLsbD 7 = true ∧ c.getLsbD 6 = false ∧ c.getLsbD 4 = false ∧
      ((∃ a d, call = .write a [c, d] ∧ c.getLsbD 5 = false) ∨
        ∃ a, call = .writeRead a [c] 2 ∧ c.getLsbD 5 = true) := by
  obtain ⟨a, r, d, rfl⟩ | ⟨a, r, rfl⟩ := form_of_legal h
  · exact ⟨commandByte r defaultFlags, rfl, commandByte_commandValid r _, commandByte_clear r _, commandByte_block r _,
      .inl ⟨a, d, rfl, commandByte_word r _⟩⟩
  · exact ⟨commandByte r wordFlag, rfl, commandByte_commandValid r _, commandByte_clear r _, commandByte_block r _,
      .inr ⟨a, rfl, commandByte_word r _⟩⟩

/-- Settles O44: a step issues nothing or one legal transaction, whose command byte reads back its flags. -/
theorem newTransactionsHaveValidCommandBytes : Obligations.NewTransactionsHaveValidCommandBytes := by
  unfold Obligations.NewTransactionsHaveValidCommandBytes
  intro s t hstep
  obtain hsame | ⟨issued, hlegal, hgrows⟩ := step_traceGrowsLegally hstep
  · exact ⟨[], by simp [hsame], by simp, by simp⟩
  · refine ⟨[issued], hgrows, by simp, fun call hcall => ?_⟩
    obtain rfl := List.mem_singleton.1 hcall
    exact flags_of_legal hlegal

/-! ## The results and the device after a transaction, by its outcome -/

theorem writeOperation_bank (a : BusAddr) (bytes : List Byte) (s : State) :
    (writeOperation a bytes s).bank = (busWrite a bytes s).bank := by
  unfold writeOperation
  split <;> rfl

theorem readOperation_bank (a : BusAddr) (low : Reg) (s : State) :
    (readOperation a low s).bank = (busWriteRead a [commandByte low wordFlag] 2 s).bank := by
  unfold readOperation
  split <;> rfl

theorem constructAt_powersOn_bank (a : BusAddr) (s : State) :
    (constructAt true a s).bank = (busWrite a powerOnBytes s).bank := by
  rw [constructAt, if_pos rfl]
  split <;> rfl

theorem writeOperation_results_of_ok {a : BusAddr} {bytes bs : List Byte} {s : State}
    (hok : busReplyOf s = .ok bs) : (writeOperation a bytes s).results = s.results ++ [.ok] := by
  obtain ⟨-, -, ⟨_, -, hresults⟩ | ⟨e, herr, -⟩⟩ := writeOperation_spec a bytes s
  · exact hresults
  · cases hok.symm.trans herr

theorem writeOperation_periph_of_ok {a : BusAddr} {bytes bs : List Byte} {s : State} (hok : busReplyOf s = .ok bs) :
    periphAt (writeOperation a bytes s).bank a = periphAfterWrite s.draws bytes (periphAt s.bank a) := by
  rw [writeOperation_bank, busWrite_periph_ok hok]

theorem writeOperation_periph_of_err {a : BusAddr} {bytes : List Byte} {s : State} {e : BusError}
    (herr : busReplyOf s = .err e) : periphAt (writeOperation a bytes s).bank a = periphUnknown s.draws := by
  rw [writeOperation_bank, busWrite_periph_err herr]

theorem readOperation_periph_of_err {a : BusAddr} {low : Reg} {s : State} {e : BusError}
    (herr : busReplyOf s = .err e) : periphAt (readOperation a low s).bank a = periphUnknown s.draws := by
  rw [readOperation_bank, busWriteRead_periph_err herr]

theorem constructAt_powersOn_periph_of_err {a : BusAddr} {s : State} {e : BusError}
    (herr : busReplyOf s = .err e) : periphAt (constructAt true a s).bank a = periphUnknown s.draws := by
  rw [constructAt_powersOn_bank, busWrite_periph_err herr]

/-! ## What a device makes of the environment's three kinds of write (R14, R15) -/

theorem periphAfterWrite_powerOn (n : Nat) (p : Peripheral) : periphAfterWrite n powerOnBytes p = periphPoweredOn n := rfl

theorem periphAfterWrite_powerOff (n : Nat) (p : Peripheral) :
    periphAfterWrite n powerOffBytes p = periphPoweredOff n := rfl

theorem periphAfterWrite_configure (n : Nat) (i : Integ) (g : Gain) (p : Peripheral) :
    periphAfterWrite n (configureBytes i g) p = periphConfigured n (timingByte i g) p := by
  cases i <;> cases g <;> rfl

/-! ## The write operations (R97, R98, R101) -/

/-- Settles O34: one write operation, after which the device is powered on. -/
theorem powerOnWritesControlThree : Obligations.PowerOnWritesControlThree := by
  unfold Obligations.PowerOnWritesControlThree
  intro s h a ha
  obtain ⟨hsame, htrace, -⟩ := writeOperation_spec a powerOnBytes s
  refine ⟨_, onHandle_of_handle ha, htrace, hsame.handles, fun bs hok => ?_, fun e => writeOperation_results_of_err⟩
  refine ⟨writeOperation_results_of_ok hok, ?_⟩
  rw [writeOperation_periph_of_ok hok, periphAfterWrite_powerOn]
  rfl

/-- Settles O35: one write operation, after which the device is powered off. -/
theorem powerOffWritesControlZero : Obligations.PowerOffWritesControlZero := by
  unfold Obligations.PowerOffWritesControlZero
  intro s h a ha
  obtain ⟨hsame, htrace, -⟩ := writeOperation_spec a powerOffBytes s
  refine ⟨_, onHandle_of_handle ha, htrace, hsame.handles, fun bs hok => ?_, fun e => writeOperation_results_of_err⟩
  refine ⟨writeOperation_results_of_ok hok, ?_⟩
  rw [writeOperation_periph_of_ok hok, periphAfterWrite_powerOff]
  exact ⟨rfl, rfl, rfl, rfl, rfl⟩

/-- The timing byte in numbers (R87). -/
theorem timingByte_toNat (i : Integ) (g : Gain) :
    (timingByte i g).toNat = (integCode i).toNat + 16 * (gainCode g).toNat := by
  cases i <;> cases g <;> rfl

/-- Settles O38: the byte written is the timing byte. -/
theorem configureOverwritesTiming : Obligations.ConfigureOverwritesTiming := by
  unfold Obligations.ConfigureOverwritesTiming
  intro s h a i g ha
  obtain ⟨hsame, htrace, -⟩ := writeOperation_spec a (configureBytes i g) s
  refine ⟨_, timingByte i g, onHandle_of_handle ha, timingByte_toNat i g, htrace, hsame.handles, fun bs hok => ?_,
    fun e => writeOperation_results_of_err⟩
  refine ⟨writeOperation_results_of_ok hok, ?_⟩
  rw [writeOperation_periph_of_ok hok, periphAfterWrite_configure]
  exact ⟨rfl, rfl⟩

/-! ## The channel reads (R99, R100) -/

/-- A read leaves its two bytes in the pair of registers it covers, and CONTROL and TIMING as they were. -/
structure ReadsPair (low : Reg) (pairLow pairHigh : Peripheral → Byte) : Prop where
  pairLow_eq : ∀ n lo hi p, pairLow (periphAfterRead n [commandByte low wordFlag] [lo, hi] p) = lo
  pairHigh_eq : ∀ n lo hi p, pairHigh (periphAfterRead n [commandByte low wordFlag] [lo, hi] p) = hi
  control_eq : ∀ n lo hi p, (periphAfterRead n [commandByte low wordFlag] [lo, hi] p).control = p.control
  timing_eq : ∀ n lo hi p, (periphAfterRead n [commandByte low wordFlag] [lo, hi] p).timing = p.timing

theorem readsPair_data0 : ReadsPair .data0Low Peripheral.data0Low Peripheral.data0High := by
  constructor <;> intros <;> rfl

theorem readsPair_data1 : ReadsPair .data1Low Peripheral.data1Low Peripheral.data1High := by
  constructor <;> intros <;> rfl

/-- The two bytes of a successful channel read go to the device and, joined, to the caller. -/
theorem readOperation_of_ok {a : BusAddr} {low : Reg} {bs : List Byte} {s : State} (hok : busReplyOf s = .ok bs) :
    ∃ lo hi, readBuffer bs 2 s = [lo, hi] ∧
      (readOperation a low s).results = s.results ++ [.count (joinBytes lo hi)] ∧
      periphAt (readOperation a low s).bank a =
        periphAfterRead s.draws [commandByte low wordFlag] [lo, hi] (periphAt s.bank a) := by
  refine ⟨_, _, readBuffer_two bs s, ?_, ?_⟩
  · obtain ⟨-, -, ⟨bs', hok', hresults⟩ | ⟨e, herr, -⟩⟩ := readOperation_spec a low s
    · cases hok.symm.trans hok'
      exact hresults
    · cases hok.symm.trans herr
  · rw [readOperation_bank, busWriteRead_periph_ok hok, readBuffer_two]

/-- What a channel read hands back, whichever channel it is: a count of the bytes that the pair of registers then holds, the
first two of the outcome if it lists them, or the bus error. -/
theorem readOperation_returnsCount {low : Reg} {pairLow pairHigh : Peripheral → Byte}
    (hpair : ReadsPair low pairLow pairHigh) {op : EnvOp} {h : Nat} {s : State} {a : BusAddr}
    (hrun : execEnv op s = onHandle h (fun a => readOperation a low) s) (ha : s.handles[h]? = some (some a)) :
    ∃ t, execEnv op s = .next t ∧ t.busTrace = s.busTrace ++ [.writeRead a [commandByte low wordFlag] 2] ∧
      t.handles = s.handles ∧
      (∀ lo hi more, busReplyOf s = .ok (lo :: hi :: more) →
        pairLow (periphAt t.bank a) = lo ∧ pairHigh (periphAt t.bank a) = hi ∧
        ∃ w : Word, t.results = s.results ++ [.count w] ∧ w.toNat = 256 * hi.toNat + lo.toNat) ∧
      (∀ bs, busReplyOf s = .ok bs →
        (periphAt t.bank a).control = (periphAt s.bank a).control ∧
        (periphAt t.bank a).timing = (periphAt s.bank a).timing ∧
        ∃ w : Word, t.results = s.results ++ [.count w] ∧
          w.toNat = 256 * (pairHigh (periphAt t.bank a)).toNat + (pairLow (periphAt t.bank a)).toNat) ∧
      ∀ e, busReplyOf s = .err e → t.results = s.results ++ [.busError e] := by
  obtain ⟨hsame, htrace, -⟩ := readOperation_spec a low s
  refine ⟨readOperation a low s, hrun.trans (onHandle_of_handle ha), htrace, hsame.handles, fun lo hi more hok => ?_,
    fun bs hok => ?_, fun e => readOperation_results_of_err⟩
  · obtain ⟨lo', hi', hbuffer, hresults, hperiph⟩ := readOperation_of_ok (a := a) (low := low) hok
    rw [readBuffer_two] at hbuffer
    cases hbuffer
    rw [hperiph, hpair.pairLow_eq, hpair.pairHigh_eq]
    exact ⟨rfl, rfl, _, hresults, joinBytes_toNat _ _⟩
  · obtain ⟨lo, hi, -, hresults, hperiph⟩ := readOperation_of_ok (a := a) (low := low) hok
    rw [hperiph, hpair.control_eq, hpair.timing_eq, hpair.pairLow_eq, hpair.pairHigh_eq]
    exact ⟨rfl, rfl, _, hresults, joinBytes_toNat lo hi⟩

/-- Settles O36: channel 0. -/
theorem readVisibleAndIrRawReturnsTheCount : Obligations.ReadVisibleAndIrRawReturnsTheCount := by
  unfold Obligations.ReadVisibleAndIrRawReturnsTheCount
  exact fun _ _ _ => readOperation_returnsCount readsPair_data0 rfl

/-- Settles O37: channel 1. -/
theorem readIrRawReturnsTheCount : Obligations.ReadIrRawReturnsTheCount := by
  unfold Obligations.ReadIrRawReturnsTheCount
  exact fun _ _ _ => readOperation_returnsCount readsPair_data1 rfl

/-! ## Construction (R96) -/

theorem busAddrOf_eq_none {v : BitVec 7} (h29 : v ≠ 0x29) (h39 : v ≠ 0x39) (h49 : v ≠ 0x49) : busAddrOf v = none := by
  rw [busAddrOf, if_neg h29, if_neg h39, if_neg h49]

/-- A construction that powers on makes its handle when the write succeeds, and CONTROL then holds 0x03. -/
theorem constructAt_powersOn_of_ok {a : BusAddr} {bs : List Byte} {s : State} (hok : busReplyOf s = .ok bs) :
    (constructAt true a s).handles = s.handles ++ [some a] ∧
      (constructAt true a s).results = s.results ++ [.constructed s.handles.length] ∧
      (periphAt (constructAt true a s).bank a).control = 0x03 := by
  obtain ⟨-, -, ⟨_, -, hhandles, hresults⟩ | ⟨e, herr, -⟩⟩ := constructAt_powersOn_spec a s
  · refine ⟨hhandles, hresults, ?_⟩
    rw [constructAt_powersOn_bank, busWrite_periph_ok hok, periphAfterWrite_powerOn]
    rfl
  · cases hok.symm.trans herr

/-- Settles O33: at a defined address construction is `constructAt`, with its write's outcome deciding; elsewhere it is
refused. -/
theorem constructForBothVariants : Obligations.ConstructForBothVariants := by
  unfold Obligations.ConstructForBothVariants
  refine ⟨fun _ _ => rfl, fun _ _ => rfl, fun s a => ?_, fun s a bs hok => ?_, fun s a e herr => ?_,
    fun on s v h29 h39 h49 => ?_⟩
  · exact execConstruct_of_constructsAt (.inl rfl) false s
  · obtain ⟨-, htrace, -⟩ := constructAt_powersOn_spec a s
    obtain ⟨hhandles, hresults, hcontrol⟩ := constructAt_powersOn_of_ok (a := a) hok
    exact ⟨_, execConstruct_of_constructsAt (.inl rfl) true s, hhandles, hresults, htrace, hcontrol⟩
  · obtain ⟨-, htrace, -⟩ := constructAt_powersOn_spec a s
    obtain ⟨hresults, hhandles⟩ := constructAt_powersOn_of_err (a := a) herr
    exact ⟨_, execConstruct_of_constructsAt (.inl rfl) true s, hhandles, hresults, htrace,
      constructAt_powersOn_periph_of_err herr⟩
  · simp [execConstruct, busAddrOf_eq_none h29 h39 h49]

/-! ## Failed transactions (R110) -/

/-- Settles O46: the operation is one write or one read at its handle's address, and so is a construction's write. -/
theorem failedTransactionLeavesRegistersFree : Obligations.FailedTransactionLeavesRegistersFree := by
  unfold Obligations.FailedTransactionLeavesRegistersFree
  constructor
  · intro s op h a e htransacts hhandle ha herr
    obtain ⟨bytes, hrun⟩ | ⟨low, hrun⟩ := execEnv_of_transacts htransacts hhandle
    · obtain ⟨hsame, -⟩ := writeOperation_spec a bytes s
      exact ⟨_, hrun s a ha, writeOperation_periph_of_err herr, hsame.otherPeriphs⟩
    · obtain ⟨hsame, -⟩ := readOperation_spec a low s
      exact ⟨_, hrun s a ha, readOperation_periph_of_err herr, hsame.otherPeriphs⟩
  · intro s address a e haddress herr
    obtain ⟨hsame, -⟩ := constructAt_powersOn_spec a s
    exact ⟨_, execConstruct_of_constructsAt haddress true s, constructAt_powersOn_periph_of_err herr, hsame.otherPeriphs⟩

/-! ## Power events (R122, R24) -/

/-- Settles O48: the event replaces the one peripheral by a powered-down one. -/
theorem powerDownClearsControl : Obligations.PowerDownClearsControl := by
  unfold Obligations.PowerDownClearsControl
  intro s a
  refine ⟨_, rfl, ?_, rfl, rfl, fun a' ha' => periphAt_setPeriphAt_other _ _ ha'⟩
  rw [deliver_bank, updatePeriph_bank, periphAt_setPeriphAt_same]
  rfl

/-- Settles O49: the event replaces the one peripheral by one of which nothing is known. -/
theorem powerUpLeavesRegistersFree : Obligations.PowerUpLeavesRegistersFree := by
  unfold Obligations.PowerUpLeavesRegistersFree
  intro s a
  exact ⟨_, rfl, periphAt_setPeriphAt_same _ _ a, rfl, rfl, fun a' ha' => periphAt_setPeriphAt_other _ _ ha'⟩

end Sys2Proof.Machine
end

section
/-! The frame of the environment: each operation acts at one bus address, hands back one result, and keeps every handle but a
dropped one. -/

namespace Sys2Proof.Machine

/-! ## The one address an operation acts at -/

/-- The operation's bus address: its handle's, the one it constructs at, or the one whose power changes (R96, R103). -/
def ActsAt (op : EnvOp) (s : State) (a : BusAddr) : Prop :=
  (∃ h, handleOf op = some h ∧ s.handles[h]? = some (some a)) ∨
    (∃ address, op = .construct address ∧ ConstructsAt address a) ∨ op = .devicePowerDown a ∨ op = .devicePowerUp a

theorem constructsAt_unique {address : Option (BitVec 7)} {a a' : BusAddr} (h : ConstructsAt address a)
    (h' : ConstructsAt address a') : a = a' := by
  obtain rfl | ⟨rfl, rfl⟩ := h <;> obtain hv | ⟨hnone, rfl⟩ := h'
  · have haddr : some a = some a' := by
      rw [← busAddrOf_busAddrBits a, Option.some.inj hv, busAddrOf_busAddrBits]
    exact Option.some.inj haddr
  · cases hnone
  · cases hv
  · rfl

theorem actsAt_of_handle {op : EnvOp} {s : State} {h : Nat} {a a' : BusAddr} (hacts : ActsAt op s a')
    (hop : handleOf op = some h) (ha : s.handles[h]? = some (some a)) : a' = a := by
  obtain ⟨h', hop', ha'⟩ | ⟨address, rfl, -⟩ | rfl | rfl := hacts
  · cases hop.symm.trans hop'
    cases ha.symm.trans ha'
    rfl
  · cases hop
  · cases hop
  · cases hop

theorem actsAt_construct {address : Option (BitVec 7)} {s : State} {a a' : BusAddr}
    (hacts : ActsAt (.construct address) s a') (h : ConstructsAt address a) : a' = a := by
  obtain ⟨h', hop', -⟩ | ⟨address', hop', h'⟩ | hop' | hop' := hacts
  · cases hop'
  · cases hop'
    exact constructsAt_unique h' h
  · cases hop'
  · cases hop'

theorem actsAt_power {op : EnvOp} {s : State} {a a' : BusAddr} (hacts : ActsAt op s a')
    (hop : op = .devicePowerDown a ∨ op = .devicePowerUp a) : a' = a := by
  obtain ⟨h', hop', -⟩ | ⟨address, rfl, -⟩ | rfl | rfl := hacts
  · obtain rfl | rfl := hop <;> cases hop'
  · obtain h | h := hop <;> cases h
  · obtain h | h := hop <;> cases h; rfl
  · obtain h | h := hop <;> cases h; rfl

/-! ## What changes there, and what does not -/

/-- From `s` to `t` one result was handed back, the inputs stay, and so does every peripheral but the one at `a`. -/
structure ChangesOnlyAt (a : BusAddr) (s t : State) : Prop where
  result : ∃ r, t.results = s.results ++ [r]
  inputs : t.inputs = s.inputs
  otherPeriphs : ∀ a', a' ≠ a → periphAt t.bank a' = periphAt s.bank a'

theorem writeOperation_changesOnlyAt (a : BusAddr) (bytes : List Byte) (s : State) :
    ChangesOnlyAt a s (writeOperation a bytes s) := by
  obtain ⟨hsame, -, ⟨_, -, hresult⟩ | ⟨_, -, hresult⟩⟩ := writeOperation_spec a bytes s
  · exact ⟨⟨_, hresult⟩, hsame.inputs, hsame.otherPeriphs⟩
  · exact ⟨⟨_, hresult⟩, hsame.inputs, hsame.otherPeriphs⟩

theorem readOperation_changesOnlyAt (a : BusAddr) (low : Reg) (s : State) :
    ChangesOnlyAt a s (readOperation a low s) := by
  obtain ⟨hsame, -, ⟨_, -, hresult⟩ | ⟨_, -, hresult⟩⟩ := readOperation_spec a low s
  · exact ⟨⟨_, hresult⟩, hsame.inputs, hsame.otherPeriphs⟩
  · exact ⟨⟨_, hresult⟩, hsame.inputs, hsame.otherPeriphs⟩

theorem constructAt_changesOnlyAt (powersOn : Bool) (a : BusAddr) (s : State) :
    ChangesOnlyAt a s (constructAt powersOn a s) := by
  cases powersOn with
  | false => exact ⟨⟨_, rfl⟩, rfl, fun _ _ => rfl⟩
  | true =>
    obtain ⟨hsame, -, ⟨_, -, -, hresult⟩ | ⟨_, -, -, hresult⟩⟩ := constructAt_powersOn_spec a s
    · exact ⟨⟨_, hresult⟩, hsame.inputs, hsame.otherPeriphs⟩
    · exact ⟨⟨_, hresult⟩, hsame.inputs, hsame.otherPeriphs⟩

theorem forgetHandle_changesOnlyAt (h : Nat) (a : BusAddr) (s : State) : ChangesOnlyAt a s (forgetHandle h s) :=
  ⟨⟨_, rfl⟩, rfl, fun _ _ => rfl⟩

theorem busAddrBits_of_busAddrOf {v : BitVec 7} {a : BusAddr} (h : busAddrOf v = some a) : busAddrBits a = v := by
  have key : ∀ v : BitVec 7, ∀ a ∈ busAddrOf v, busAddrBits a = v := by decide
  exact key v a h

/-- A construction that completes was at the address its argument names. -/
theorem execConstruct_next_constructsAt {powersOn : Bool} {address : Option (BitVec 7)} {s t : State}
    (h : execConstruct powersOn address s = .next t) :
    ∃ a, ConstructsAt address a ∧ t = constructAt powersOn a s := by
  cases address with
  | none => cases h; exact ⟨defaultBusAddr, .inr ⟨rfl, rfl⟩, rfl⟩
  | some v =>
    have hwf := (execConstruct_next_iff powersOn (some v) s).1 ⟨t, h⟩
    obtain ⟨a, hv⟩ := (busAddrOf_isSome_iff v).2 hwf
    have haddress : ConstructsAt (some v) a := .inl (by rw [busAddrBits_of_busAddrOf hv])
    cases (execConstruct_of_constructsAt haddress powersOn s).symm.trans h
    exact ⟨a, haddress, rfl⟩

theorem onHandle_changesOnlyAt {op : EnvOp} {h : Nat} {k : BusAddr → State → State} {s t : State}
    (hop : handleOf op = some h) (hk : ∀ a, ChangesOnlyAt a s (k a s)) (ht : onHandle h k s = .next t) :
    ∃ a, ActsAt op s a ∧ ChangesOnlyAt a s t := by
  obtain ⟨a, ha, rfl⟩ := onHandle_next.1 ht
  exact ⟨a, .inl ⟨h, hop, ha⟩, hk a⟩

/-- An operation that completes acts at one bus address and changes no other device. -/
theorem execEnv_changesOnlyAt {op : EnvOp} {s t : State} (h : execEnv op s = .next t) :
    ∃ a, ActsAt op s a ∧ ChangesOnlyAt a s t := by
  cases op with
  | construct address =>
    obtain ⟨a, ha, rfl⟩ := execConstruct_next_constructsAt h
    exact ⟨a, .inr (.inl ⟨address, rfl, ha⟩), constructAt_changesOnlyAt _ a s⟩
  | powerOn => exact onHandle_changesOnlyAt rfl (fun a => writeOperation_changesOnlyAt a _ s) h
  | powerOff => exact onHandle_changesOnlyAt rfl (fun a => writeOperation_changesOnlyAt a _ s) h
  | readVisibleAndIrRaw => exact onHandle_changesOnlyAt rfl (fun a => readOperation_changesOnlyAt a _ s) h
  | readIrRaw => exact onHandle_changesOnlyAt rfl (fun a => readOperation_changesOnlyAt a _ s) h
  | configureTimingAndGain => exact onHandle_changesOnlyAt rfl (fun a => writeOperation_changesOnlyAt a _ s) h
  | dropHandle i => exact onHandle_changesOnlyAt rfl (fun a => forgetHandle_changesOnlyAt i a s) h
  | devicePowerDown a =>
    cases h
    exact ⟨a, .inr (.inr (.inl rfl)), ⟨_, rfl⟩, rfl, fun _ ha' => periphAt_setPeriphAt_other _ _ ha'⟩
  | devicePowerUp a =>
    cases h
    exact ⟨a, .inr (.inr (.inr rfl)), ⟨_, rfl⟩, rfl, fun _ ha' => periphAt_setPeriphAt_other _ _ ha'⟩

/-! ## The handles -/

/-- What becomes of the handles from `s` to `t`: they stay, one is added at the end, or the handle `op` drops is forgotten. -/
def HandlesKept (op : EnvOp) (s t : State) : Prop :=
  t.handles = s.handles ∨ (∃ a, t.handles = s.handles ++ [some a]) ∨
    ∃ h, op = .dropHandle h ∧ t.handles = s.handles.set h none

theorem constructAt_handles (powersOn : Bool) (a : BusAddr) (s : State) :
    (constructAt powersOn a s).handles = s.handles ∨ (constructAt powersOn a s).handles = s.handles ++ [some a] := by
  cases powersOn with
  | false => exact .inr rfl
  | true =>
    obtain ⟨-, -, ⟨_, -, hhandles, -⟩ | ⟨_, -, hhandles, -⟩⟩ := constructAt_powersOn_spec a s
    · exact .inr hhandles
    · exact .inl hhandles

/-- Each of the five operations is a call on a handle, so it completes only on one that exists. -/
theorem exists_handle_of_transacts {op : EnvOp} {s t : State} (htransacts : transacts op = true)
    (hrun : execEnv op s = .next t) : ∃ h a, handleOf op = some h ∧ s.handles[h]? = some (some a) := by
  have hcall : ∃ h, handleOf op = some h := by
    cases op with
    | construct | dropHandle | devicePowerDown | devicePowerUp => cases htransacts
    | _ => exact ⟨_, rfl⟩
  obtain ⟨h, hop⟩ := hcall
  obtain ⟨-, hexists⟩ := (execEnv_next_iff op s).1 ⟨t, hrun⟩
  obtain ⟨a, ha⟩ := hexists h hop
  exact ⟨h, a, hop, ha⟩

theorem execEnv_handlesKept {op : EnvOp} {s t : State} (h : execEnv op s = .next t) : HandlesKept op s t := by
  cases hop : transacts op with
  | true =>
    obtain ⟨i, a, hi, ha⟩ := exists_handle_of_transacts hop h
    obtain ⟨t', -, hrun, hsame, -⟩ := execEnv_transacts_spec hop hi ha
    cases hrun.symm.trans h
    exact .inl hsame.handles
  | false =>
    cases op with
    | construct address =>
      obtain ⟨a, rfl⟩ := execConstruct_next h
      obtain hkept | hadded := constructAt_handles Config.constructPowersOn a s
      · exact .inl hkept
      · exact .inr (.inl ⟨a, hadded⟩)
    | dropHandle h' =>
      obtain ⟨a, -, rfl⟩ := onHandle_next.1 h
      exact .inr (.inr ⟨h', rfl, rfl⟩)
    | devicePowerDown => cases h; exact .inl rfl
    | devicePowerUp => cases h; exact .inl rfl
    | _ => cases hop

/-- A handle keeps its address or, if the operation drops it, loses it (R123, R128). -/
theorem HandlesKept.getElem? {op : EnvOp} {s t : State} (hkept : HandlesKept op s t) {h : Nat} {x : Option BusAddr}
    (hx : s.handles[h]? = some x) :
    t.handles[h]? = some x ∨ (op = .dropHandle h ∧ t.handles[h]? = some none) := by
  obtain ⟨hlt, -⟩ := List.getElem?_eq_some_iff.1 hx
  obtain hsame | ⟨a, hadded⟩ | ⟨h', rfl, hdropped⟩ := hkept
  · exact .inl (by rw [hsame, hx])
  · exact .inl (by rw [hadded, List.getElem?_append_left hlt, hx])
  · by_cases heq : h' = h
    · subst heq
      exact .inr ⟨rfl, by rw [hdropped, List.getElem?_set_self hlt]⟩
    · exact .inl (by rw [hdropped, List.getElem?_set_ne heq, hx])

/-- Settles O41: one result and one device change; the handles stay but for a dropped one, and the trace grows by at most one. -/
theorem environmentFrame : Obligations.EnvironmentFrame := by
  unfold Obligations.EnvironmentFrame
  intro s t op hrun
  obtain ⟨a, hacts, hchange⟩ := execEnv_changesOnlyAt hrun
  have htrace : s.busTrace <+: t.busTrace ∧ t.busTrace.length ≤ s.busTrace.length + 1 := by
    obtain hsame | ⟨call, -, hgrows⟩ := execEnv_traceGrowsLegally hrun
    · simp [hsame]
    · simp [hgrows]
  refine ⟨hchange.result, htrace.1, htrace.2, hchange.inputs, fun h x hx hne => ?_, fun h a₀ hop ha => ?_,
    fun address a₀ hop haddress => ?_, fun a₀ hop => ?_⟩
  · obtain hkept | ⟨hdrop, -⟩ := (execEnv_handlesKept hrun).getElem? hx
    · exact hkept
    · exact absurd hdrop hne
  · exact actsAt_of_handle hacts hop ha ▸ hchange.otherPeriphs
  · subst hop
    exact actsAt_construct hacts haddress ▸ hchange.otherPeriphs
  · exact actsAt_power hacts hop ▸ hchange.otherPeriphs

theorem runDecoded_handles {d : Except Reject Instr} {s t : State} (h : runDecoded d s = .next t) :
    t.handles = s.handles := by
  obtain ⟨i, rfl⟩ := (runDecoded_next_iff d s).1 ⟨t, h⟩
  obtain ⟨r, hr⟩ := exec_eq_answer i
  cases (hr s).symm.trans h
  rfl

/-- Settles O45: only an operation of the environment reaches the handles, and it keeps all but the one it drops. -/
theorem handleAddressNeverChanges : Obligations.HandleAddressNeverChanges := by
  unfold Obligations.HandleAddressNeverChanges
  intro s t h a hstep ha
  obtain ⟨-, rfl⟩ | ⟨x, rest, hs, hrun⟩ := step_cases hstep
  · exact .inl ha
  · cases x with
    | ports p => exact .inl (by rw [runDecoded_handles hrun, ha])
    | word fn bytes => exact .inl (by rw [runDecoded_handles hrun, ha])
    | env op =>
      obtain hkept | ⟨rfl, hnone⟩ := (execEnv_handlesKept hrun).getElem? ha
      · exact .inl hkept
      · exact .inr ⟨hnone, by rw [hs, List.head?_cons]⟩

/-! ## The outcomes -/

theorem busReplyOf_of_cons {s : State} {r : BusReply} {rest : List BusReply} (h : s.busReplies = r :: rest) :
    busReplyOf s = r := by
  simp [busReplyOf, h]

/-- Without a transaction no outcome is used up. -/
theorem execEnv_busReplies_of_not_transacts {op : EnvOp} {s t : State} (hrun : execEnv op s = .next t)
    (hop : transacts op = false) (hne : ∀ address, op ≠ .construct address) : t.busReplies = s.busReplies := by
  cases op with
  | construct address => exact absurd rfl (hne address)
  | dropHandle h =>
    obtain ⟨a, -, rfl⟩ := onHandle_next.1 hrun
    rfl
  | devicePowerDown => cases hrun; rfl
  | devicePowerUp => cases hrun; rfl
  | _ => cases hop

theorem exec_busReplies_draws {i : Instr} {s t : State} (h : exec i s = .next t) :
    t.busReplies = s.busReplies ∧ t.draws = s.draws := by
  obtain ⟨r, hr⟩ := exec_eq_answer i
  cases (hr s).symm.trans h
  exact ⟨rfl, rfl⟩

/-- Settles O50: a transaction drops the head of the outcomes, so the next one meets the second; nothing else touches them. -/
theorem everyTransactionUsesUpItsOutcome : Obligations.EveryTransactionUsesUpItsOutcome := by
  unfold Obligations.EveryTransactionUsesUpItsOutcome
  refine ⟨fun s op h a htransacts hop ha => ?_, fun s address a haddress => ⟨?_, ?_⟩,
    fun _ _ _ => execEnv_busReplies_of_not_transacts, fun _ _ _ => exec_busReplies_draws⟩
  · obtain ⟨t, -, hrun, hsame, -⟩ := execEnv_transacts_spec htransacts hop ha
    refine ⟨t, hrun, hsame.busReplies, hsame.draws, fun r1 r2 rest hs => ⟨busReplyOf_of_cons hs, ?_⟩⟩
    have ht : t.busReplies = r2 :: rest := by rw [hsame.busReplies, hs, List.tail_cons]
    exact busReplyOf_of_cons ht
  · obtain ⟨hsame, -⟩ := constructAt_powersOn_spec a s
    exact ⟨_, execConstruct_of_constructsAt haddress true s, hsame.busReplies, hsame.draws⟩
  · exact ⟨_, execConstruct_of_constructsAt haddress false s, rfl, rfl⟩

end Sys2Proof.Machine
end
